-- ==== Sys2Proof/Word.lean ====
section
/-! DEFINITION. The words of the block: bytes, 32-bit words, bit-strings, tables of 256 entries. -/

namespace Sys2Proof

/-- A byte; a Symbol is one byte (00_scope.md R6, `SYM_W = 8`). -/
abbrev Byte := BitVec 8

/-- A host-visible register or table word (00_scope.md R6, `REG_W = 32`). -/
abbrev Word := BitVec 32

/-- A bit-string, its first bit at the head (00_scope.md R10). -/
abbrev Bits := List Bool

/-- A table with one entry for each of the 256 symbols (00_scope.md R6, `NSYM_MAX = 256`). -/
abbrev Table (α : Type) := Vector α 256

end Sys2Proof
end

