-- ==== Sys2Proof/Config.lean ====
section
/-! DEFINITION. The parameters an implementation fixes, and the values the spec leaves open. -/

namespace Sys2Proof

/-- The OPEN parameters of 00_scope.md R6 that a rule depends on.  A machine holds one `Config`, which
nothing changes; a statement about every state is a statement about every configuration.  BASE is left
out: no rule depends on it and the block is addressed by offset (93_implementation_defined.md U7). -/
structure Config where
  /-- IN_CAP: capacity of the IN buffer in bytes. -/
  inCap  : Nat
  /-- OUT_CAP: capacity of the OUT buffer in bytes. -/
  outCap : Nat
  /-- PAD8: whether a byte-aligned, non-empty bit-string gets a whole zero byte of padding. -/
  pad8   : Bool
  /-- WS: the byte values TRIM removes; only membership matters. -/
  ws     : List Byte
  deriving DecidableEq, Repr

/-- The defaults of 00_scope.md R6. -/
def Config.standard : Config :=
  { inCap := 65536, outCap := 524288, pad8 := false,
    ws := [0x09#8, 0x0A#8, 0x0B#8, 0x0C#8, 0x0D#8, 0x20#8] }

/-- What the byte `IN[i]` holds after the reset number `epoch` until something writes it: arbitrary, but
stable (10_state.md R45, 93_implementation_defined.md U1).  A free value: it has no body to compute with. -/
opaque Config.inAtReset (epoch i : Nat) : Byte

/-- What the read number `draw` of an unspecified byte of OUT returns: arbitrary, and possibly different on
each read (10_state.md R40, 93_implementation_defined.md U2).  A free value. -/
opaque Config.outUnspecified (draw : Nat) : Byte

end Sys2Proof
end

