-- ==== Sys2Proof/Syntax.lean ====
section
/-! DEFINITION. The command set HFC-1: what 00_scope.md R2 calls an instruction of this hardware. -/

namespace Sys2Proof

/-- The eight commands of 30_encoding.md R91.  No command has an operand (R92). -/
inductive Instr where
  /-- TRIM, opcode 0x01 (40_frequency.md R120). -/
  | trim
  /-- ANALYZE, opcode 0x02 (40_frequency.md R125). -/
  | analyze
  /-- BUILD, opcode 0x03 (41_tree.md R140). -/
  | build
  /-- DERIVE, opcode 0x04 (42_codetable.md R160). -/
  | derive
  /-- PACK, opcode 0x05 (43_pack.md R185). -/
  | pack
  /-- COMPRESS, opcode 0x10 (45_facade.md R222). -/
  | compress
  /-- DECOMPRESS, opcode 0x11 (44_unpack.md R204). -/
  | decompress
  /-- CLEAR, opcode 0x20 (45_facade.md R223). -/
  | clear
  deriving DecidableEq, Repr

end Sys2Proof
end

