-- ==== Sys2Proof/WellFormed.lean ====
section
/-! DEFINITION. What is well formed: a command, a command word, a configuration. -/

namespace Sys2Proof

/-- Every command is well formed: it has no operand that could be out of range (30_encoding.md R92). -/
def Instr.wf : Instr → Bool
  | .trim | .analyze | .build | .derive | .pack | .compress | .decompress | .clear => true

/-- The OPC field, bits 7:0 of a command word (30_encoding.md R90). -/
def opcField (w : Word) : Byte := w.extractLsb' 0 8

/-- The ZERO field, bits 31:8 of a command word (30_encoding.md R90). -/
def zeroField (w : Word) : BitVec 24 := w.extractLsb' 8 24

/-- The eight opcodes of 30_encoding.md R91. -/
def legalOpcodes : List Byte := [0x01#8, 0x02#8, 0x03#8, 0x04#8, 0x05#8, 0x10#8, 0x11#8, 0x20#8]

/-- A word is a legal command when its ZERO field is 0 and its OPC field is one of the eight opcodes
(30_encoding.md R90, R93). -/
def commandWordWf (w : Word) : Bool := zeroField w == 0 && legalOpcodes.contains (opcField w)

/-- The constraints 00_scope.md R6 puts on the capacities. -/
def Config.wf (c : Config) : Bool :=
  decide (1 ≤ c.inCap ∧ c.inCap ≤ 2 ^ 24 ∧ 2 ≤ c.outCap ∧ c.outCap ≤ 2 ^ 27)

end Sys2Proof
end

