-- ==== Sys2Proof/Decode.lean ====
section
/-! DEFINITION. Decoding a command word, total on all 2^32 of them, and encoding a command. -/

namespace Sys2Proof

/-- The command an OPC value names (30_encoding.md R91); every other value is reserved as illegal (R93). -/
def decodeOpcode (o : Byte) : Option Instr :=
  if o = 0x01#8 then some .trim
  else if o = 0x02#8 then some .analyze
  else if o = 0x03#8 then some .build
  else if o = 0x04#8 then some .derive
  else if o = 0x05#8 then some .pack
  else if o = 0x10#8 then some .compress
  else if o = 0x11#8 then some .decompress
  else if o = 0x20#8 then some .clear
  else none

/-- The command a word stands for: OPC alone tells it once ZERO is seen to be 0 (30_encoding.md R90).
`none` is an illegal command (R93). -/
def decode (w : Word) : Option Instr :=
  if zeroField w = 0#24 then decodeOpcode (opcField w) else none

/-- The opcode of a command, from the table of 30_encoding.md R91. -/
def opcodeOf : Instr → Byte
  | .trim => 0x01#8
  | .analyze => 0x02#8
  | .build => 0x03#8
  | .derive => 0x04#8
  | .pack => 0x05#8
  | .compress => 0x10#8
  | .decompress => 0x11#8
  | .clear => 0x20#8

/-- The word of a command: its opcode, zero-extended (30_encoding.md R91). -/
def encode (i : Instr) : Word := (opcodeOf i).setWidth 32

/-- The low `nbits` bits of `w`, every bit above them 0. -/
def tableWord (nbits w : Nat) : Nat := w % 2 ^ nbits

/-- The command read from an instruction numbered as the opcode table numbers it.  A command is exactly one
32-bit word (30_encoding.md R90), so a value that does not fit one is refused. -/
def decodeTableWord (nbits w : Nat) : Option Instr :=
  if tableWord nbits w < 2 ^ 32 then decode (BitVec.ofNat 32 (tableWord nbits w)) else none

end Sys2Proof
end

