-- ==== Sys2Proof/Machine/Bits.lean ====
section
/-! DEFINITION. Bit-strings and bytes: `bin8` and `val` of 00_scope.md R11. -/

namespace Sys2Proof.Machine

open Sys2Proof

/-- `bin8(n)`: the bit-string of a byte, most significant bit first (00_scope.md R11). -/
def bin8 (b : Byte) : Bits :=
  [b.getLsbD 7, b.getLsbD 6, b.getLsbD 5, b.getLsbD 4, b.getLsbD 3, b.getLsbD 2, b.getLsbD 1, b.getLsbD 0]

/-- `val(b)`: the number a bit-string spells, most significant bit first (00_scope.md R11). -/
def val (b : Bits) : Nat := b.foldl (fun n x => 2 * n + x.toNat) 0

/-- The byte a bit-string of 8 bits spells (20_memory.md R72). -/
def byteOfBits (b : Bits) : Byte := BitVec.ofNat 8 (val b)

/-- The word that holds up to 32 bits, the first at bit 31, the bits it does not fill 0 (30_encoding.md R104). -/
def wordOfBits (b : Bits) : Word := BitVec.ofNat 32 (val (b ++ List.replicate (32 - b.length) false))

end Sys2Proof.Machine
end

