-- ==== Sys2Proof/Machine/State.lean ====
section
/-! DEFINITION. The state of the block and of its host interface, as plain data, and the state after reset. -/

namespace Sys2Proof.Machine

open Sys2Proof

/-- STATUS.PHASE, the state of the facade (10_state.md R24, 45_facade.md R220).  The codes 6 to 15 never
occur, so the phase is one of six names; `Phase.code` gives the number a host reads. -/
inductive Phase where
  | idle
  | analyzed
  | treeBuilt
  | tableReady
  | packed
  | unpacked
  deriving DecidableEq, Repr

/-- The result codes of 60_exceptions.md R250.  Codes 7 to 255 never occur; `ErrCode.code` gives the number. -/
inductive ErrCode where
  | ok
  | illegalCommand
  | sequence
  | noTable
  | missingCode
  | format
  | overflow
  deriving DecidableEq, Repr

/-- What a command reports when it raises: the error and its detail value (60_exceptions.md R250). -/
structure Raise where
  code : ErrCode
  info : Word
  deriving DecidableEq, Repr

/-- A valid entry of NODE (10_state.md R35).  Child indices are indices of NODE. -/
inductive Node where
  | leaf (sym : Byte) (freq : Word)
  | internal (freq : Word) (left right : Nat)
  deriving DecidableEq, Repr

/-- A byte buffer: the bytes that hold a known value, by index, in ONE form (`Memory.wf`): indices strictly
rising.  What an index that is not listed reads as is a free value of `Config`, so no listed byte can be
equal to it by rule and none is ever left out of the list for that reason. -/
abbrev Memory := List Host.Cell

/-- The widths a host access can have (20_memory.md R68, R69). -/
inductive Width where
  | byte
  | half
  | word
  deriving DecidableEq, Repr

/-- Data on the bus, with its width. -/
inductive BusData where
  | byte (v : Byte)
  | half (v : BitVec 16)
  | word (v : Word)
  deriving DecidableEq, Repr

/-- What the outside does to the block: a read or a write at an offset of the window (20_memory.md R60, R61),
or the platform reset (70_reset_and_hazards.md R280). -/
inductive HostEvent where
  | read (off : Nat) (width : Width)
  | write (off : Nat) (data : BusData)
  | reset
  deriving DecidableEq, Repr

/-- The bus's answer to the latest event: nothing yet, data of a read, completion of a write, or the error
response of a refused access (20_memory.md R69, R75). -/
inductive BusResponse where
  | none
  | data (d : BusData)
  | done
  | error
  deriving DecidableEq, Repr

/-- The whole state: what 10_state.md R20 lists, and below it the host's side. -/
structure State where
  /-- The parameters; PARAM, IN_CAP and OUT_CAP read from here (10_state.md R33). -/
  cfg     : Config
  /-- STATUS.PHASE (10_state.md R24). -/
  phase   : Phase
  /-- STATUS.TV (10_state.md R24). -/
  tv      : Bool
  /-- STATUS.STICKY (10_state.md R24). -/
  sticky  : Bool
  /-- ERR (10_state.md R25). -/
  err     : ErrCode
  /-- ERRINFO (10_state.md R25). -/
  errInfo : Word
  /-- IN_LEN (10_state.md R26). -/
  inLen   : Word
  /-- OUT_LEN (10_state.md R27). -/
  outLen  : Word
  /-- NSYM (10_state.md R28). -/
  nsym    : Word
  /-- NODE_CNT (10_state.md R29). -/
  nodeCnt : Word
  /-- ROOT (10_state.md R30). -/
  root    : Word
  /-- BIT_LEN (10_state.md R31). -/
  bitLen  : Word
  /-- PAD (10_state.md R32). -/
  pad     : Word
  /-- FREQ (10_state.md R34). -/
  freq    : Table Word
  /-- NODE: its valid entries in index order; every index at or above the length is invalid (10_state.md R35). -/
  node    : List Node
  /-- CODE: each entry invalid or a bit-string (10_state.md R37). -/
  code    : Table (Option Bits)
  /-- IN: the bytes written since the last reset (10_state.md R39, R45). -/
  inBuf   : Memory
  /-- OUT: the bytes whose value is specified (10_state.md R40). -/
  outBuf  : Memory
  /-- The model's own: host events not yet served, oldest first (notes/assumptions/6.md). -/
  host    : List HostEvent
  /-- The model's own: the bus's answer to the latest event. -/
  resp    : BusResponse
  /-- The model's own: the mark that some access was refused (20_memory.md R69). -/
  hostRefused : Bool
  /-- The model's own: number of platform resets, argument of the free value of IN's bytes. -/
  epoch   : Nat
  /-- The model's own: number of reads of unspecified OUT bytes, argument of their free value. -/
  draws   : Nat
  deriving DecidableEq, Repr

/-- Reasons to stop with a fault.  There are none: every error of the block is a next state with a result
code (60_exceptions.md R257), every command terminates with a defined state (70_reset_and_hazards.md R290),
and a refused host access changes nothing and gets an error response (20_memory.md R69).  The type has no
constructor, so `step` cannot answer a fault. -/
inductive Fault where
  deriving DecidableEq, Repr

/-- Reasons to refuse.  Only exec's arms could raise one, for a command without a meaning. -/
inductive Refusal where
  /-- A command of the table that has no meaning yet.  Raised by no arm of this model.  Safe. -/
  | notModelled (mnemonic : String)
  deriving DecidableEq, Repr

/-- The state after a reset of a block with the parameters `c`: the table of 10_state.md R45.  The model's own
fields start empty (notes/assumptions/5.md); what IN and OUT hold is open, so nothing is listed in them. -/
def State.resetWith (c : Config) : State :=
  { cfg := c, phase := .idle, tv := false, sticky := false, err := .ok, errInfo := 0#32,
    inLen := 0#32, outLen := 0#32, nsym := 0#32, nodeCnt := 0#32, root := 0#32, bitLen := 0#32, pad := 0#32,
    freq := Vector.replicate 256 0#32, node := [], code := Vector.replicate 256 none,
    inBuf := [], outBuf := [],
    host := [], resp := .none, hostRefused := false, epoch := 0, draws := 0 }

/-- The machine right after reset, with the default parameters of 00_scope.md R6. -/
def State.reset : State := State.resetWith Config.standard

end Sys2Proof.Machine
end

