-- ==== Sys2Proof/Machine/Flags.lean ====
section
/-! DEFINITION. The numbers a host reads for the phase, the result code, STATUS and PARAM. -/

namespace Sys2Proof.Machine

open Sys2Proof

/-- The code of a phase (10_state.md R24). -/
def Phase.code : Phase → BitVec 4
  | .idle => 0
  | .analyzed => 1
  | .treeBuilt => 2
  | .tableReady => 3
  | .packed => 4
  | .unpacked => 5

/-- The phase as a detail value of a Sequence error: "PHASE at the time, 0 to 5" (60_exceptions.md R250). -/
def phaseInfo (p : Phase) : Word := p.code.setWidth 32

/-- The number of a result code (60_exceptions.md R250). -/
def ErrCode.code : ErrCode → Byte
  | .ok => 0
  | .illegalCommand => 1
  | .sequence => 2
  | .noTable => 3
  | .missingCode => 4
  | .format => 5
  | .overflow => 6

/-- ERR as a host reads it: the code in bits 7:0, the rest 0 (10_state.md R25). -/
def errWord (s : State) : Word := s.err.code.setWidth 32

/-- A Boolean as the bit `k` of a word. -/
def flagBit (b : Bool) (k : Nat) : Word := if b then 1#32 <<< k else 0#32

/-- STATUS as a host reads it: PHASE in 3:0, TV in 4, STICKY in 5, the rest 0 (10_state.md R24). -/
def statusWord (s : State) : Word := phaseInfo s.phase ||| flagBit s.tv 4 ||| flagBit s.sticky 5

/-- PARAM as a host reads it: PAD8 in bit 0, the rest 0 (10_state.md R33). -/
def paramWord (c : Config) : Word := flagBit c.pad8 0

/-- IN_CAP as a host reads it (10_state.md R33). -/
def inCapWord (c : Config) : Word := BitVec.ofNat 32 c.inCap

/-- OUT_CAP as a host reads it (10_state.md R33). -/
def outCapWord (c : Config) : Word := BitVec.ofNat 32 c.outCap

end Sys2Proof.Machine
end

