-- ==== Sys2Proof/Machine/Ops.lean ====
section
/-! DEFINITION. The named operations: tables, byte buffers, register writes, the error entry, reset. -/

namespace Sys2Proof.Machine

open Sys2Proof

/-! ### Tables of 256 entries -/

/-- The 256 symbols in ascending value (40_frequency.md R127). -/
def allSymbols : List Byte := (List.range 256).map (BitVec.ofNat 8)

/-- The table with entry `f s` for each symbol `s`. -/
def tabulate {α : Type} (f : Byte → α) : Table α := ⟨⟨allSymbols.map f⟩, by simp [allSymbols]⟩

/-- Entry `s` of a table: `T[s]` (20_memory.md R60). -/
def entry {α : Type} (t : Table α) (s : Byte) : α := t[s.toNat]'s.isLt

/-- The entries of a table with their symbols, in ascending symbol value. -/
def rows {α : Type} (t : Table α) : List (Byte × α) := allSymbols.zip t.toList

/-! ### Byte buffers -/

/-- The canonical form of a buffer: indices strictly rising. -/
abbrev Memory.wf (m : Memory) : Prop := (m.map Prod.fst).Pairwise (· < ·)

/-- The listed byte at an index, if one is listed. -/
def Memory.lookup : Memory → Nat → Option Byte
  | [], _ => none
  | (b, w) :: m, a => if a = b then some w else Memory.lookup m a

/-- `m` with the byte `v` at index `a`. -/
def Memory.write : Memory → Nat → Byte → Memory
  | [], a, v => [(a, v)]
  | (b, w) :: m, a, v =>
    if a < b then (a, v) :: (b, w) :: m
    else if a = b then (a, v) :: m
    else (b, w) :: Memory.write m a v

/-- The buffer that lists the bytes of a sequence at the indices from `i` on, and nothing else. -/
def Memory.ofBytesFrom : Nat → List Byte → Memory
  | _, [] => []
  | i, v :: vs => (i, v) :: Memory.ofBytesFrom (i + 1) vs

/-- The buffer that lists exactly a byte sequence, in index order from 0 (20_memory.md R71). -/
def Memory.ofBytes (bs : List Byte) : Memory := Memory.ofBytesFrom 0 bs

/-! ### Writes of registers, tables and buffers -/

/-- `IN_LEN <- n` (10_state.md R26). -/
def setInLen (n : Word) (s : State) : State := { s with inLen := n }

/-- `PHASE <- p` (10_state.md R24). -/
def setPhase (p : Phase) (s : State) : State := { s with phase := p }

/-- `IN[i] <- v`, the host's write of one byte (20_memory.md R66). -/
def writeIn (i : Nat) (v : Byte) (s : State) : State := { s with inBuf := Memory.write s.inBuf i v }

/-- `FREQ <- f` and, with it, `NSYM <- n` (10_state.md R28, R34). -/
def writeFreq (f : Table Word) (n : Word) (s : State) : State := { s with freq := f, nsym := n }

/-- `(NODE, NODE_CNT, ROOT) <- (ns, cnt, r)`; every entry that `ns` does not list becomes invalid
(41_tree.md R140). -/
def writeTree (ns : List Node) (cnt r : Word) (s : State) : State :=
  { s with node := ns, nodeCnt := cnt, root := r }

/-- All 256 entries of CODE at once, and `TV <- 1` (42_codetable.md R160). -/
def writeCode (t : Table (Option Bits)) (s : State) : State := { s with code := t, tv := true }

/-- The result of an OUT-writing command: `OutWrite(j, A[j])` for every `j` in ascending order, OUT_LEN,
BIT_LEN and PAD (43_pack.md R185, 44_unpack.md R204).  The bytes at and above OUT_LEN are unspecified
afterwards (10_state.md R40), so no earlier byte stays listed. -/
def writeOut (bytes : List Byte) (bits pad : Word) (s : State) : State :=
  { s with outBuf := Memory.ofBytes bytes, outLen := BitVec.ofNat 32 bytes.length, bitLen := bits, pad := pad }

/-- `OUT_LEN <- 0`, and every byte of OUT becomes unspecified (60_exceptions.md R257, 10_state.md R40). -/
def dropOut (s : State) : State := { s with outLen := 0#32, outBuf := [] }

/-! ### How a command ends -/

/-- `ERR <- 0 ; ERRINFO <- 0`: the end of every command that completes.  STICKY is not touched
(60_exceptions.md R260). -/
def succeed (s : State) : State := { s with err := .ok, errInfo := 0#32 }

/-- The error entry of 60_exceptions.md R257, this hardware's taking of an exception: ERR and ERRINFO hold the
error, STICKY is set, nothing else is written.  There is no saved pc, no mode and no handler to go to, and
so no return from it: the next command simply follows (R260). -/
def errorEntry (r : Raise) (s : State) : State :=
  { s with err := r.code, errInfo := r.info, sticky := true }

/-- The error entry of PACK, COMPRESS and DECOMPRESS, which besides gives up OUT (60_exceptions.md R257). -/
def errorEntryOut (r : Raise) (s : State) : State := errorEntry r (dropOut s)

/-- What a command reports whose phase precondition fails: Sequence with the phase (60_exceptions.md R252). -/
def sequenceRaise (s : State) : Raise := ⟨.sequence, phaseInfo s.phase⟩

/-- The effect of an illegal command word: IllegalCommand with the word, nothing else (60_exceptions.md R251). -/
def illegalCommand (w : Word) (s : State) : State := errorEntry ⟨.illegalCommand, w⟩ s

/-! ### CLEAR and reset -/

/-- What CLEAR does to the block (45_facade.md R223): everything but IN, IN_LEN and the constants. -/
def clearBlock (s : State) : State :=
  { s with
    phase := .idle, tv := false, sticky := false, err := .ok, errInfo := 0#32,
    outLen := 0#32, nsym := 0#32, nodeCnt := 0#32, root := 0#32, bitLen := 0#32, pad := 0#32,
    freq := Vector.replicate 256 0#32, node := [], code := Vector.replicate 256 none, outBuf := [] }

/-- What the platform reset does (70_reset_and_hazards.md R280): what CLEAR does, `IN_LEN <- 0`, and IN's
contents become unspecified anew.  No answer of the bus is outstanding afterwards. -/
def resetBlock (s : State) : State :=
  { clearBlock s with inLen := 0#32, inBuf := [], epoch := s.epoch + 1, resp := .none }

/-! ### The bus's answers -/

/-- The bus answers `r` to the event being served. -/
def respond (r : BusResponse) (s : State) : State := { s with resp := r }

/-- A refused access: an error response and no change of the block; the script is marked (20_memory.md R69). -/
def refuse (s : State) : State := { s with resp := .error, hostRefused := true }

end Sys2Proof.Machine
end

