-- ==== Sys2Proof/Machine/Operands.lean ====
section
/-! DEFINITION. The implicit operands of the commands: the input bytes, the result bytes. -/

namespace Sys2Proof.Machine

open Sys2Proof

/-- `IN[i]`: the byte written there since the last reset, else the free value of reset's contents
(10_state.md R39, R45). -/
def inByte (s : State) (i : Nat) : Byte := (Memory.lookup s.inBuf i).getD (Config.inAtReset s.epoch i)

/-- `IN[0..IN_LEN)`, the input of a command, read in ascending order (20_memory.md R74). -/
def inputBytes (s : State) : List Byte := (List.range s.inLen.toNat).map (inByte s)

/-- The specified byte `OUT[i]`, if `i < OUT_LEN` (10_state.md R40). -/
def outByte (s : State) (i : Nat) : Option Byte :=
  if i < s.outLen.toNat then Memory.lookup s.outBuf i else none

/-- `OUT[0..OUT_LEN)`, the result of a command. -/
def outputBytes (s : State) : List Byte := (List.range s.outLen.toNat).filterMap (outByte s)

end Sys2Proof.Machine
end

