-- ==== Sys2Proof/Machine/Bus.lean ====
section
/-! DEFINITION. The host window: the address map, reads, writes, refusals (20_memory.md, 30_encoding.md). -/

namespace Sys2Proof.Machine

open Sys2Proof

/-! ### Where the ranges start (20_memory.md R61, R62) -/

/-- Offset of CMD. -/
def cmdOffset : Nat := 0x00
/-- Offset of IN_LEN. -/
def inLenOffset : Nat := 0x10
/-- Start of the FREQ window. -/
def freqBase : Nat := 0x0400
/-- Start of the NODE window. -/
def nodeBase : Nat := 0x2000
/-- Start of the CODE window. -/
def codeBase : Nat := 0x4000
/-- Start of the IN window. -/
def inBase : Nat := 0x01000000
/-- Start of the OUT window. -/
def outBase : Nat := 0x08000000

/-! ### Words a host reads -/

/-- The register at an offset, `none` where there is none (20_memory.md R62).  CMD reads 0 (10_state.md R23). -/
def registerWord (s : State) (off : Nat) : Option Word :=
  if off = 0x00 then some 0#32
  else if off = 0x04 then some (statusWord s)
  else if off = 0x08 then some (errWord s)
  else if off = 0x0C then some s.errInfo
  else if off = 0x10 then some s.inLen
  else if off = 0x14 then some s.outLen
  else if off = 0x18 then some s.nsym
  else if off = 0x1C then some s.nodeCnt
  else if off = 0x20 then some s.root
  else if off = 0x24 then some s.bitLen
  else if off = 0x28 then some s.pad
  else if off = 0x2C then some (paramWord s.cfg)
  else if off = 0x30 then some (inCapWord s.cfg)
  else if off = 0x34 then some (outCapWord s.cfg)
  else none

/-- A child index in its 9-bit field (30_encoding.md R103). -/
def indexField (k : Nat) : Word := (BitVec.ofNat 9 k).setWidth 32

/-- Word `j` of a NODE entry (30_encoding.md R103). -/
def nodeWord : Option Node → Nat → Word
  | none, _ => 0#32
  | some n, 0 => match n with
    | .leaf _ f => f
    | .internal f _ _ => f
  | some n, 1 => match n with
    | .leaf sym _ => 0x80000000#32 ||| sym.setWidth 32
    | .internal _ _ _ => 0xC0000000#32
  | some n, 2 => match n with
    | .leaf _ _ => 0#32
    | .internal _ l r => indexField l ||| indexField r <<< 16
  | some _, _ => 0#32

/-- Entry `k` of NODE as the window shows it: invalid at and above NODE_CNT (20_memory.md R64). -/
def nodeEntry (s : State) (k : Nat) : Option Node := if k < s.nodeCnt.toNat then s.node[k]? else none

/-- Word `j` of a CODE entry (30_encoding.md R104). -/
def codeWord : Option Bits → Nat → Word
  | none, _ => 0#32
  | some c, 0 => 0x80000000#32 ||| (BitVec.ofNat 8 c.length).setWidth 32
  | some c, j + 1 => if j < 8 then wordOfBits ((c.drop (32 * j)).take 32) else 0#32

/-- The word at an offset that is a multiple of 4, `none` where a word access is not accepted
(20_memory.md R61 to R65). -/
def windowWord (s : State) (off : Nat) : Option Word :=
  if off < 0x38 then registerWord s off
  else if freqBase ≤ off ∧ off < freqBase + 4 * 256 then
    some (entry s.freq (BitVec.ofNat 8 ((off - freqBase) / 4)))
  else if nodeBase ≤ off ∧ off < nodeBase + 16 * 512 then
    some (nodeWord (nodeEntry s ((off - nodeBase) / 16)) ((off - nodeBase) % 16 / 4))
  else if codeBase ≤ off ∧ off < codeBase + 64 * 256 then
    some (codeWord (entry s.code (BitVec.ofNat 8 ((off - codeBase) / 64))) ((off - codeBase) % 64 / 4))
  else none

/-- A word read: the offset is a multiple of 4 and lies in a word range (20_memory.md R68, R69). -/
def readWord (s : State) (off : Nat) : Option Word := if off % 4 = 0 then windowWord s off else none

/-! ### Bytes -/

/-- The index in IN of an offset in the IN window (20_memory.md R66). -/
def inIndex (c : Config) (off : Nat) : Option Nat :=
  if inBase ≤ off ∧ off < inBase + c.inCap then some (off - inBase) else none

/-- The index in OUT of an offset in the OUT window (20_memory.md R67). -/
def outIndex (c : Config) (off : Nat) : Option Nat :=
  if outBase ≤ off ∧ off < outBase + c.outCap then some (off - outBase) else none

/-- A host read of `OUT[i]`: the specified byte, or a fresh free value (10_state.md R40, 20_memory.md R67). -/
def readOut (i : Nat) (s : State) : State :=
  match outByte s i with
  | some v => respond (.data (.byte v)) s
  | none => respond (.data (.byte (Config.outUnspecified s.draws))) { s with draws := s.draws + 1 }

/-! ### Serving an access -/

/-- A read of `w` bytes at an offset (20_memory.md R62 to R69). -/
def serveRead (off : Nat) (w : Width) (s : State) : State :=
  match w with
  | .word =>
    match readWord s off with
    | some v => respond (.data (.word v)) s
    | none => refuse s
  | .half => refuse s
  | .byte =>
    match inIndex s.cfg off with
    | some i => respond (.data (.byte (inByte s i))) s
    | none =>
      match outIndex s.cfg off with
      | some i => readOut i s
      | none => refuse s

/-- A write other than the write of a command word: IN_LEN, if the value does not exceed IN_CAP, and the
bytes of IN; everything else is refused (20_memory.md R62, R66, R69). -/
def serveWrite (off : Nat) (d : BusData) (s : State) : State :=
  match d with
  | .word v =>
    if off = inLenOffset ∧ v.toNat ≤ s.cfg.inCap then respond .done (setInLen v s) else refuse s
  | .half _ => refuse s
  | .byte v =>
    match inIndex s.cfg off with
    | some i => respond .done (writeIn i v s)
    | none => refuse s

/-- The command word an event issues: a word written to CMD (10_state.md R23). -/
def commandWordOf : HostEvent → Option Word
  | .write off (.word v) => if off = cmdOffset then some v else none
  | .write _ (.byte _) => none
  | .write _ (.half _) => none
  | .read _ _ => none
  | .reset => none

/-- An event that issues no command. -/
def serveEvent (e : HostEvent) (s : State) : State :=
  match e with
  | .read off w => serveRead off w s
  | .write off d => serveWrite off d s
  | .reset => resetBlock s

/-- The oldest event has left the queue. -/
def popHost (rest : List HostEvent) (s : State) : State := { s with host := rest }

/-- With no event pending the block waits and loses nothing (60_exceptions.md R268). -/
def waitForHost (s : State) : State := s

end Sys2Proof.Machine
end

