-- ==== Sys2Proof/Machine/Tree.lean ====
section
/-! DEFINITION. BUILD: the priority-queue merge (41_tree.md). -/

namespace Sys2Proof.Machine

open Sys2Proof

/-- The frequency a node carries. -/
def Node.freq : Node → Word
  | .leaf _ f => f
  | .internal f _ _ => f

/-- The children of a node, left first. -/
def Node.children : Node → List Nat
  | .leaf _ _ => []
  | .internal _ l r => [l, r]

/-- Whether a node is a Leaf. -/
def Node.isLeaf : Node → Bool
  | .leaf _ _ => true
  | .internal _ _ _ => false

/-- The symbol of a Leaf. -/
def Node.sym : Node → Option Byte
  | .leaf s _ => some s
  | .internal _ _ _ => none

/-- `N[k].freq`. -/
def freqAt (ns : List Node) (k : Nat) : Word := (ns[k]?.map Node.freq).getD 0#32

/-- The leaves of a frequency table, one for each entry, in ascending symbol value (41_tree.md R141). -/
def leaves (f : Table Word) : List Node :=
  (rows f).filterMap fun p => if p.2 = 0#32 then none else some (.leaf p.1 p.2)

/-- Whether node `x` is popped before node `y`: the smaller frequency first, and among equals the smaller
index (41_tree.md R142). -/
def keyLt (ns : List Node) (x y : Nat) : Bool :=
  decide ((freqAt ns x).toNat < (freqAt ns y).toNat ∨ (freqAt ns x = freqAt ns y ∧ x < y))

/-- The member of `q :: qs` with the least key (00_scope.md R13, `argmin`). -/
def argminKey (ns : List Node) (q : Nat) (qs : List Nat) : Nat :=
  qs.foldl (fun m k => if keyLt ns k m then k else m) q

/-- Pop: the index with the least key, and the queue without it. -/
def popMin (ns : List Node) : List Nat → Option (Nat × List Nat)
  | [] => none
  | q :: qs => some (argminKey ns q qs, (q :: qs).erase (argminKey ns q qs))

/-- The Internal node whose left child is the node popped first and whose right child is the one popped
second (41_tree.md R143). -/
def mergeNode (ns : List Node) (a b : Nat) : Node := .internal (freqAt ns a + freqAt ns b) a b

/-- One merge step: pop two, append their parent, insert its index (41_tree.md R141).  `none` when fewer
than two indices are queued. -/
def mergeStep (ns : List Node) (q : List Nat) : Option (List Node × List Nat) :=
  (popMin ns q).bind fun p =>
    (popMin ns p.2).map fun p' => (ns ++ [mergeNode ns p.1 p'.1], p'.2 ++ [ns.length])

/-- Merge steps while more than one index is queued; `fuel` bounds their number (70_reset_and_hazards.md R290). -/
def mergeLoop : Nat → List Node → List Nat → List Node × List Nat
  | 0, ns, q => (ns, q)
  | fuel + 1, ns, q =>
    match mergeStep ns q with
    | none => (ns, q)
    | some (ns', q') => mergeLoop fuel ns' q'

/-- The end of the merge loop of `build`: a table with `n` entries takes `n - 1` steps, so `n` is fuel enough. -/
def mergeAll (f : Table Word) : List Node × List Nat :=
  mergeLoop (leaves f).length (leaves f) (List.range (leaves f).length)

/-- The node list that `build` makes of a frequency table (41_tree.md R141). -/
def buildNodes (f : Table Word) : List Node := (mergeAll f).1

/-- The root: the one index left in the queue, or 0 when there is no tree (41_tree.md R141, R146). -/
def buildRoot (f : Table Word) : Nat := (mergeAll f).2.headD 0

/-- BUILD's work: NODE, NODE_CNT, ROOT and PHASE (41_tree.md R140). -/
def buildStage (s : State) : State :=
  setPhase .treeBuilt
    (writeTree (buildNodes s.freq) (BitVec.ofNat 32 (buildNodes s.freq).length)
      (BitVec.ofNat 32 (buildRoot s.freq)) s)

/-- BUILD: legal in phase Analyzed, else a Sequence error (41_tree.md R140). -/
def execBuild (s : State) : Host.Outcome State Fault Refusal :=
  if s.phase = .analyzed then .next (succeed (buildStage s))
  else .next (errorEntry (sequenceRaise s) s)

end Sys2Proof.Machine
end

