-- ==== Sys2Proof/Machine/CodeTable.lean ====
section
/-! DEFINITION. DERIVE: the walk of the tree (42_codetable.md). -/

namespace Sys2Proof.Machine

open Sys2Proof

/-- `visit(k, acc)`: depth first, a step to a left child appends 0 and a step to a right child 1; a Leaf emits
its symbol with the accumulated bit-string (42_codetable.md R161).  `fuel` bounds the depth: children have
smaller indices than their parent, so the number of nodes is enough. -/
def visit (ns : List Node) : Nat → Nat → Bits → List (Byte × Bits)
  | 0, _, _ => []
  | fuel + 1, k, acc =>
    match ns[k]? with
    | none => []
    | some (.leaf sym _) => [(sym, acc)]
    | some (.internal _ l r) => visit ns fuel l (acc ++ [false]) ++ visit ns fuel r (acc ++ [true])

/-- The function `derive`: nothing when there is no tree (42_codetable.md R163), the code "0" for the only
symbol when the root is a Leaf (R162), else what the walk from the root emits (R161). -/
def derive (ns : List Node) (cnt root : Nat) : List (Byte × Bits) :=
  if cnt = 0 then []
  else
    match ns[root]? with
    | some (.leaf sym _) => [(sym, [false])]
    | _ => visit ns ns.length root []

/-- The code table of a set of pairs: the entry of each symbol that has one, all others invalid
(42_codetable.md R160). -/
def codeTableOf (ps : List (Byte × Bits)) : Table (Option Bits) := tabulate fun s => ps.lookup s

/-- The code table DERIVE makes of the NODE of a state: it reads `NODE[0..NODE_CNT)` (42_codetable.md R160). -/
def derivedTable (s : State) : Table (Option Bits) :=
  codeTableOf (derive (s.node.take s.nodeCnt.toNat) s.nodeCnt.toNat s.root.toNat)

/-- DERIVE's work: CODE, TV and PHASE (42_codetable.md R160). -/
def deriveStage (s : State) : State := setPhase .tableReady (writeCode (derivedTable s) s)

/-- DERIVE: legal in phase TreeBuilt, else a Sequence error (42_codetable.md R160). -/
def execDerive (s : State) : Host.Outcome State Fault Refusal :=
  if s.phase = .treeBuilt then .next (succeed (deriveStage s))
  else .next (errorEntry (sequenceRaise s) s)

end Sys2Proof.Machine
end

