-- ==== Sys2Proof/Machine/Frequency.lean ====
section
/-! DEFINITION. TRIM and ANALYZE (40_frequency.md). -/

namespace Sys2Proof.Machine

open Sys2Proof

/-- The function `trim`: remove bytes from the end while the last byte is in WS (40_frequency.md R121). -/
def trim (ws : List Byte) (b : List Byte) : List Byte := (b.reverse.dropWhile ws.contains).reverse

/-- TRIM's work: IN_LEN becomes the trimmed length, IN is not written (40_frequency.md R120). -/
def trimStage (s : State) : State :=
  setInLen (BitVec.ofNat 32 (trim s.cfg.ws (inputBytes s)).length) s

/-- TRIM (40_frequency.md R120). -/
def execTrim (s : State) : Host.Outcome State Fault Refusal := .next (succeed (trimStage s))

/-- The function `analyze`: how often each symbol occurs (40_frequency.md R126). -/
def analyze (b : List Byte) : Table Word := tabulate fun s => BitVec.ofNat 32 (b.count s)

/-- The number of entries of a frequency table: `#{ s | FREQ[s] != 0 }` (10_state.md R28). -/
def symbolCount (f : Table Word) : Nat := f.toList.countP (fun n => n != 0#32)

/-- ANALYZE's work: FREQ, NSYM and PHASE (40_frequency.md R125). -/
def analyzeStage (s : State) : State :=
  setPhase .analyzed
    (writeFreq (analyze (inputBytes s)) (BitVec.ofNat 32 (symbolCount (analyze (inputBytes s)))) s)

/-- ANALYZE (40_frequency.md R125). -/
def execAnalyze (s : State) : Host.Outcome State Fault Refusal := .next (succeed (analyzeStage s))

end Sys2Proof.Machine
end

