-- ==== Sys2Proof/Machine/Pack.lean ====
section
/-! DEFINITION. PACK: encode, pad, toBytes (43_pack.md). -/

namespace Sys2Proof.Machine

open Sys2Proof

/-- What an OUT-writing command produces: the result bytes, the length of the unpadded bit-string and the
padding count. -/
structure Produced where
  bytes  : List Byte
  bitLen : Nat
  pad    : Nat
  deriving DecidableEq, Repr

/-- `encode` from input index `i` on: the codes in input order, or MissingCode at the first symbol that has
none (43_pack.md R180). -/
def encodeFrom (t : Table (Option Bits)) : Nat → List Byte → Except Raise Bits
  | _, [] => .ok []
  | i, b :: bs =>
    match entry t b with
    | none => .error ⟨.missingCode, BitVec.ofNat 32 i⟩
    | some c =>
      match encodeFrom t (i + 1) bs with
      | .error e => .error e
      | .ok r => .ok (c ++ r)

/-- The function `encode` (43_pack.md R180). -/
def encodeBits (t : Table (Option Bits)) (b : List Byte) : Except Raise Bits := encodeFrom t 0 b

/-- The padding count of a bit-string of length `len` in the mode PAD8 (43_pack.md R182). -/
def extra (pad8 : Bool) (len : Nat) : Nat :=
  if len = 0 then 0 else if pad8 then 8 - len % 8 else (8 - len % 8) % 8

/-- The function `pad`: the count as a header byte, the bit-string, that many 0 bits (43_pack.md R182). -/
def padBits (pad8 : Bool) (b : Bits) : Bits :=
  bin8 (BitVec.ofNat 8 (extra pad8 b.length)) ++ b ++ List.replicate (extra pad8 b.length) false

/-- The function `toBytes`: groups of 8 bits, most significant first.  A length that is not a multiple of 8 is
a Format error of sub-cause 4, which no command can meet (43_pack.md R184, 60_exceptions.md R255). -/
def toBytes : Bits → Except Raise (List Byte)
  | [] => .ok []
  | b7 :: b6 :: b5 :: b4 :: b3 :: b2 :: b1 :: b0 :: rest =>
    match toBytes rest with
    | .error e => .error e
    | .ok bs => .ok (byteOfBits [b7, b6, b5, b4, b3, b2, b1, b0] :: bs)
  | _ => .error ⟨.format, 4#32⟩

/-- The function `pack`: `toBytes(pad(encode(b, T)))` (43_pack.md R187). -/
def packBytes (pad8 : Bool) (t : Table (Option Bits)) (b : List Byte) : Except Raise (List Byte) :=
  match encodeBits t b with
  | .error e => .error e
  | .ok bits => toBytes (padBits pad8 bits)

/-- The check that a complete result fits OUT, made last (60_exceptions.md R256). -/
def fitOut (outCap : Nat) (p : Produced) : Except Raise Produced :=
  if p.bytes.length > outCap then .error ⟨.overflow, 0#32⟩ else .ok p

/-- What PACK produces: the artifact with BIT_LEN and PAD, or the first error in the order of its pseudocode
(43_pack.md R185). -/
def packProduce (s : State) : Except Raise Produced :=
  match encodeBits s.code (inputBytes s) with
  | .error e => .error e
  | .ok bits =>
    match toBytes (padBits s.cfg.pad8 bits) with
    | .error e => .error e
    | .ok a => fitOut s.cfg.outCap ⟨a, bits.length, (a.headD 0#8).toNat⟩

/-- The end of an OUT-writing command: the result with the new phase, or the error entry that gives up OUT
(43_pack.md R185, 44_unpack.md R204, 60_exceptions.md R257). -/
def finishOut (r : Except Raise Produced) (p : Phase) (s : State) : State :=
  match r with
  | .error e => errorEntryOut e s
  | .ok o => succeed (setPhase p (writeOut o.bytes (BitVec.ofNat 32 o.bitLen) (BitVec.ofNat 32 o.pad) s))

/-- PACK: legal in phase TableReady, else a Sequence error (43_pack.md R185). -/
def execPack (s : State) : Host.Outcome State Fault Refusal :=
  if s.phase = .tableReady then .next (finishOut (packProduce s) .packed s)
  else .next (errorEntryOut (sequenceRaise s) s)

end Sys2Proof.Machine
end

