-- ==== Sys2Proof/Machine/Unpack.lean ====
section
/-! DEFINITION. DECOMPRESS: fromBytes, unpad, decode (44_unpack.md). -/

namespace Sys2Proof.Machine

open Sys2Proof

/-- The function `fromBytes` (44_unpack.md R200). -/
def fromBytes (bs : List Byte) : Bits := bs.flatMap bin8

/-- The function `unpad`: the bit-string without header and padding, and the padding count; Format errors of
sub-causes 2 and 3 (44_unpack.md R201). -/
def unpadBits (u : Bits) : Except Raise (Bits × Nat) :=
  if u.length < 8 then .error ⟨.format, 2#32⟩
  else if val (u.take 8) > (u.drop 8).length then .error ⟨.format, 3#32⟩
  else .ok ((u.drop 8).take ((u.drop 8).length - val (u.take 8)), val (u.take 8))

/-- `rev(c)`: the symbol whose code is `c` (10_state.md R38). -/
def rev (t : Table (Option Bits)) (c : Bits) : Option Byte :=
  ((rows t).find? fun p => p.2 == some c).map Prod.fst

/-- The scan of `decode` with the candidate `cand`: one bit at a time, a match emits its symbol and empties the
candidate, a candidate left at the end is a Format error of sub-cause 1 (44_unpack.md R202). -/
def decodeScan (t : Table (Option Bits)) : Bits → Bits → Except Raise (List Byte)
  | cand, [] => if cand = [] then .ok [] else .error ⟨.format, 1#32⟩
  | cand, x :: d =>
    match rev t (cand ++ [x]) with
    | none => decodeScan t (cand ++ [x]) d
    | some s =>
      match decodeScan t [] d with
      | .error e => .error e
      | .ok out => .ok (s :: out)

/-- The function `decode` (44_unpack.md R202). -/
def decodeBits (t : Table (Option Bits)) (d : Bits) : Except Raise (List Byte) := decodeScan t [] d

/-- The function `unpack`: `decode` of the unpadded bits of an artifact (44_unpack.md R206). -/
def unpackBytes (t : Table (Option Bits)) (a : List Byte) : Except Raise (List Byte) :=
  match unpadBits (fromBytes a) with
  | .error e => .error e
  | .ok (d, _) => decodeBits t d

/-- What DECOMPRESS produces: the symbols with BIT_LEN and PAD, or the first error in the order of its
pseudocode (44_unpack.md R204). -/
def unpackProduce (s : State) : Except Raise Produced :=
  match unpadBits (fromBytes (inputBytes s)) with
  | .error e => .error e
  | .ok (d, extra) =>
    match decodeBits s.code d with
    | .error e => .error e
    | .ok out => fitOut s.cfg.outCap ⟨out, d.length, extra⟩

/-- DECOMPRESS: legal when a table is held (TV), whatever the phase, else a NoTable error (44_unpack.md R204). -/
def execDecompress (s : State) : Host.Outcome State Fault Refusal :=
  if s.tv then .next (finishOut (unpackProduce s) .unpacked s)
  else .next (errorEntryOut ⟨.noTable, 0#32⟩ s)

end Sys2Proof.Machine
end

