-- ==== Sys2Proof/Machine/Facade.lean ====
section
/-! DEFINITION. COMPRESS and CLEAR (45_facade.md). -/

namespace Sys2Proof.Machine

open Sys2Proof

/-- The first four stages of COMPRESS, in order (45_facade.md R222). -/
def compressStages (s : State) : State := deriveStage (buildStage (analyzeStage (trimStage s)))

/-- COMPRESS: the four stages, then PACK's work on what they left.  An error of the last stage keeps what the
stages wrote (45_facade.md R222). -/
def execCompress (s : State) : Host.Outcome State Fault Refusal :=
  .next (finishOut (packProduce (compressStages s)) .packed (compressStages s))

/-- CLEAR: the state of a fresh codec instance, IN and IN_LEN kept (45_facade.md R223). -/
def execClear (s : State) : Host.Outcome State Fault Refusal := .next (clearBlock s)

end Sys2Proof.Machine
end

