-- ==== Sys2Proof/Machine/Dispatch.lean ====
section
/-! DEFINITION. One arm per command. -/

namespace Sys2Proof.Machine

open Sys2Proof

def exec (i : Instr) (s : State) : Host.Outcome State Fault Refusal :=
  match i with
  | .trim => Sys2Proof.Machine.execTrim s
  | .analyze => Sys2Proof.Machine.execAnalyze s
  | .build => Sys2Proof.Machine.execBuild s
  | .derive => Sys2Proof.Machine.execDerive s
  | .pack => Sys2Proof.Machine.execPack s
  | .compress => Sys2Proof.Machine.execCompress s
  | .decompress => Sys2Proof.Machine.execDecompress s
  | .clear => Sys2Proof.Machine.execClear s

end Sys2Proof.Machine
end

