-- ==== Sys2Proof/Machine/Issue.lean ====
section
/-! DEFINITION. Issuing a command word, and the host's notation for scripts. -/

namespace Sys2Proof.Machine

open Sys2Proof

/-- A word written to CMD: the command it decodes to runs to its end, any other word is an illegal command
(30_encoding.md R93). -/
def runCommand (w : Word) (s : State) : Host.Outcome State Fault Refusal :=
  match decode w with
  | some i => exec i s
  | none => .next (illegalCommand w s)

/-! ### Host scripts (30_encoding.md R95, R96) -/

/-- `cmdw <word>`: the write of a word to CMD. -/
def cmdw (w : Word) : HostEvent := .write cmdOffset (.word w)

/-- `cmd <MNEMONIC>`. -/
def cmd (i : Instr) : HostEvent := cmdw (encode i)

/-- `wrb IN[<i>], <byte>`. -/
def wrbIn (i : Nat) (v : Byte) : HostEvent := .write (inBase + i) (.byte v)

/-- `wr IN_LEN, <n>`. -/
def wrInLen (n : Nat) : HostEvent := .write inLenOffset (.word (BitVec.ofNat 32 n))

/-- `rdb OUT[<i>]`. -/
def rdbOut (i : Nat) : HostEvent := .read (outBase + i) .byte

/-- The byte writes of `ld IN, <bytes>` from index `i` on. -/
def wrbFrom : Nat → List Byte → List HostEvent
  | _, [] => []
  | i, v :: vs => wrbIn i v :: wrbFrom (i + 1) vs

/-- The macro `ld IN, <bytes>` (30_encoding.md R96). -/
def ldIn (bs : List Byte) : List HostEvent := wrbFrom 0 bs ++ [wrInLen bs.length]

/-- The byte reads and writes of `mvout` from index `j` on, for a host that reads the bytes `bs` from OUT. -/
def mvFrom : Nat → List Byte → List HostEvent
  | _, [] => []
  | j, v :: vs => rdbOut j :: wrbIn j v :: mvFrom (j + 1) vs

/-- The macro `mvout` for a host that reads `bs` from OUT (30_encoding.md R96): `rd OUT_LEN`, then each byte read and
written to IN, then `wr IN_LEN`. -/
def mvout (bs : List Byte) : List HostEvent :=
  .read 0x14 .word :: (mvFrom 0 bs ++ [wrInLen bs.length])

end Sys2Proof.Machine
end

