-- ==== Sys2Proof/Machine/Step.lean ====
section
/-! DEFINITION. One step of the machine: the block serves the oldest pending host event. -/

namespace Sys2Proof.Machine

open Sys2Proof

/-- One step.  A command is one indivisible step, and its CMD write is answered when it has ended
(20_memory.md R75); any other event is served as the bus serves it; with nothing pending the block waits. -/
def step (s : State) : Host.Outcome State Fault Refusal :=
  match s.host with
  | [] => .next (waitForHost s)
  | e :: rest =>
    match commandWordOf e with
    | some w => runCommand w (respond .done (popHost rest s))
    | none => .next (serveEvent e (popHost rest s))

/-- The state in which the next step runs exactly the instruction of `nbits` bits `w`: its write to CMD is the
oldest pending host event (notes/assumptions/6.md). -/
def State.withFetchWord (s : State) (nbits w : Nat) : State :=
  { s with host := cmdw (BitVec.ofNat 32 (tableWord nbits w)) :: s.host }

end Sys2Proof.Machine
end

