-- ==== Sys2Proof/Safety.lean ====
section
/-! DEFINITION. The terms claims use: the invariants of 10_state.md R44, the shape of a tree, paths and codes,
what the address map refuses, and runs of commands. -/

namespace Sys2Proof.Machine

open Sys2Proof

/-! ### Trees (10_state.md R36, 41_tree.md R144) -/

/-- The number of Leaf entries of a node list: `n` of 41_tree.md R144. -/
def leafCount (ns : List Node) : Nat := ns.countP Node.isLeaf

/-- What 10_state.md R35 and R36 say of entry `k` of a node list with `n` leaves: the leaves come first and
have counts of at least 1; an Internal entry has two different children, both of smaller index, and carries
the sum of their frequencies. -/
def nodeOk (ns : List Node) (n k : Nat) : Node → Bool
  | .leaf _ f => decide (k < n ∧ 1 ≤ f.toNat)
  | .internal f l r =>
    decide (n ≤ k ∧ l < k ∧ r < k ∧ l ≠ r ∧ f.toNat = (freqAt ns l).toNat + (freqAt ns r).toNat)

/-- A node list is a tree (or empty): `2n - 1` entries for `n` leaves, each as `nodeOk` says, the leaves in
ascending symbol value, and every entry but the last the child of exactly one entry. -/
abbrev TreeOk (ns : List Node) : Prop :=
  ns.length = 2 * leafCount ns - 1 ∧ leafCount ns ≤ 256 ∧
  (∀ k < ns.length, (ns[k]?.all (nodeOk ns (leafCount ns) k)) = true) ∧
  (ns.filterMap Node.sym).Pairwise (fun a b => a.toNat < b.toNat) ∧
  (∀ k < ns.length - 1, (ns.flatMap Node.children).count k = 1)

/-- The sum of all counts of a frequency table. -/
def freqTotal (f : Table Word) : Nat := (f.toList.map BitVec.toNat).sum

/-- One edge down from node `k`: label 0 to the left child, label 1 to the right child (42_codetable.md R161). -/
def edge (ns : List Node) (k : Nat) (b : Bool) : Option Nat :=
  match ns[k]? with
  | some (.internal _ l r) => some (if b then r else l)
  | some (.leaf _ _) => none
  | none => none

/-- The node reached from `k` by following edge labels. -/
def follow (ns : List Node) : Nat → Bits → Option Nat
  | k, [] => some k
  | k, b :: c =>
    match edge ns k b with
    | some k' => follow ns k' c
    | none => none

/-- The symbol of the leaf that a path from `root` ends at, if it ends at a leaf. -/
def symbolAtPath (ns : List Node) (root : Nat) (c : Bits) : Option Byte :=
  match follow ns root c with
  | some k => ns[k]?.bind Node.sym
  | none => none

/-! ### Code tables (10_state.md R37, R44 (d)) -/

/-- The valid entries of a code table, in ascending symbol value. -/
def validCodes (t : Table (Option Bits)) : List (Byte × Bits) :=
  (rows t).filterMap fun p => p.2.map fun c => (p.1, c)

/-- The valid entries hold pairwise distinct codes, none a prefix of another, each of length 1 to 255. -/
abbrev CodesOk (t : Table (Option Bits)) : Prop :=
  (validCodes t).Pairwise (fun p q => ¬ p.2 <+: q.2 ∧ ¬ q.2 <+: p.2) ∧
  ∀ p ∈ validCodes t, 1 ≤ p.2.length ∧ p.2.length ≤ 255

/-- The code table of a tree: what DERIVE makes of a node list. -/
def treeTable (ns : List Node) : Table (Option Bits) := codeTableOf (derive ns ns.length (ns.length - 1))

/-- The code table of a frequency table: what BUILD and then DERIVE make of it. -/
def tableOfFreq (f : Table Word) : Table (Option Bits) :=
  codeTableOf (derive (buildNodes f) (buildNodes f).length (buildRoot f))

/-- The length of the code of a symbol, 0 when it has none. -/
def codeLength (t : Table (Option Bits)) (s : Byte) : Nat := ((entry t s).map List.length).getD 0

/-- The length of the encoded bit-string of a byte sequence (43_pack.md R181). -/
def encodedLength (t : Table (Option Bits)) (b : List Byte) : Nat := (b.map (codeLength t)).sum

/-- The length of the artifact of an encoded bit-string of `len` bits (43_pack.md R187). -/
def artifactLength (pad8 : Bool) (len : Nat) : Nat := 1 + (len + extra pad8 len) / 8

/-! ### The invariants of 10_state.md R44 -/

/-- R44 (a). -/
abbrev LengthsOk (s : State) : Prop :=
  s.inLen.toNat ≤ s.cfg.inCap ∧ s.outLen.toNat ≤ s.cfg.outCap

/-- R44 (b). -/
abbrev FreqOk (s : State) : Prop :=
  s.nsym.toNat = symbolCount s.freq ∧ freqTotal s.freq ≤ s.cfg.inCap

/-- R44 (c). -/
abbrev NodesOk (s : State) : Prop :=
  TreeOk s.node ∧ s.nodeCnt.toNat = s.node.length ∧ s.root.toNat = s.node.length - 1

/-- R44 (d) and (e). -/
abbrev TableOk (s : State) : Prop :=
  CodesOk s.code ∧ (s.tv = false → validCodes s.code = [])

/-- R44 (f); that PHASE is at most 5 is in its type. -/
abbrev PhaseOk (s : State) : Prop :=
  s.phase = .tableReady ∨ s.phase = .packed → s.tv = true

/-- R44 (g), and ERRINFO is 0 when ERR is (10_state.md R25). -/
abbrev ErrOk (s : State) : Prop :=
  (s.sticky = false → s.err = .ok) ∧ (s.err = .ok → s.errInfo = 0#32)

/-- The ranges of BIT_LEN and PAD (10_state.md R31, R32). -/
abbrev RangesOk (s : State) : Prop :=
  s.bitLen.toNat ≤ 255 * 2 ^ 24 ∧ s.pad.toNat ≤ 255

/-- Both buffers have the canonical form; IN lists only indices below IN_CAP, and OUT lists exactly the
indices below OUT_LEN. -/
abbrev BuffersOk (s : State) : Prop :=
  Memory.wf s.inBuf ∧ (∀ c ∈ s.inBuf, c.1 < s.cfg.inCap) ∧
  Memory.wf s.outBuf ∧ s.outBuf.map Prod.fst = List.range s.outLen.toNat

/-- Everything 10_state.md R44 says of the block between commands, for a configuration that meets the
constraints of 00_scope.md R6. -/
abbrev Inv (s : State) : Prop :=
  s.cfg.wf = true ∧ LengthsOk s ∧ FreqOk s ∧ NodesOk s ∧ TableOk s ∧ PhaseOk s ∧ ErrOk s ∧ RangesOk s ∧
  BuffersOk s

/-- The tables of a staged compression belong together while it is under way: from TreeBuilt on NODE is the
tree of FREQ, and from TableReady on CODE is the table of NODE (42_codetable.md R165, 45_facade.md R221). -/
abbrev StagesAgree (s : State) : Prop :=
  (s.phase = .treeBuilt ∨ s.phase = .tableReady ∨ s.phase = .packed →
    s.node = buildNodes s.freq ∧ s.nodeCnt = BitVec.ofNat 32 (buildNodes s.freq).length ∧
    s.root = BitVec.ofNat 32 (buildRoot s.freq)) ∧
  (s.phase = .tableReady ∨ s.phase = .packed → s.code = derivedTable s)

/-- A safe run so far: no command since the last reset or CLEAR failed, and no access was refused. -/
abbrev Safe (s : State) : Prop := s.sticky = false ∧ s.hostRefused = false

/-! ### The address map as a list of what is refused (20_memory.md R69) -/

/-- The ranges that accept only aligned words: registers, FREQ, NODE, CODE (20_memory.md R61, R68). -/
abbrev InWordRange (off : Nat) : Prop :=
  off ≤ 0x37 ∨ (0x0400 ≤ off ∧ off ≤ 0x07FF) ∨ (0x2000 ≤ off ∧ off ≤ 0x3FFF) ∨ (0x4000 ≤ off ∧ off ≤ 0x7FFF)

/-- The IN window (20_memory.md R61). -/
abbrev InInRange (c : Config) (off : Nat) : Prop := 0x01000000 ≤ off ∧ off ≤ 0x01000000 + c.inCap - 1

/-- The OUT window (20_memory.md R61). -/
abbrev InOutRange (c : Config) (off : Nat) : Prop := 0x08000000 ≤ off ∧ off ≤ 0x08000000 + c.outCap - 1

/-- The width of data on the bus. -/
def BusData.width : BusData → Width
  | .byte _ => .byte
  | .half _ => .half
  | .word _ => .word

/-- R69 (a) to (d), for an access of width `w` at an offset: unmapped, misaligned, or a width that the range
does not accept. -/
abbrev RefusedPlace (c : Config) (off : Nat) (w : Width) : Prop :=
  (¬ InWordRange off ∧ ¬ InInRange c off ∧ ¬ InOutRange c off) ∨
  (w = .word ∧ off % 4 ≠ 0) ∨
  (InWordRange off ∧ w ≠ .word) ∨
  ((InInRange c off ∨ InOutRange c off) ∧ w ≠ .byte)

/-- R69 (e): a write to a read-only register, to a table window or to the OUT window.  CMD and IN_LEN are the
only registers a host may write (20_memory.md R62). -/
abbrev RefusedReadOnly (c : Config) (off : Nat) : Prop :=
  (InWordRange off ∧ off ≠ 0x00 ∧ off ≠ 0x10) ∨ InOutRange c off

/-- R69 (f): a write to IN_LEN of a value greater than IN_CAP. -/
abbrev RefusedInLen (c : Config) (off : Nat) (d : BusData) : Prop :=
  off = 0x10 ∧ ∃ v, d = .word v ∧ c.inCap < v.toNat

/-- The accesses 20_memory.md R69 refuses. -/
def RefusedAccess (c : Config) : HostEvent → Prop
  | .read off w => RefusedPlace c off w
  | .write off d => RefusedPlace c off d.width ∨ RefusedReadOnly c off ∨ RefusedInLen c off d
  | .reset => False

/-! ### Runs -/

/-- The commands of a list, one after the other. -/
def execAll : List Instr → State → Host.Outcome State Fault Refusal
  | [], s => .next s
  | i :: is, s =>
    match exec i s with
    | .next t => execAll is t
    | .fault r => .fault r
    | .refused r => .refused r

/-- What makes a command legal (45_facade.md R221). -/
def legal : Instr → State → Prop
  | .build, s => s.phase = .analyzed
  | .derive, s => s.phase = .treeBuilt
  | .pack, s => s.phase = .tableReady
  | .decompress, s => s.tv = true
  | .trim, _ => True
  | .analyze, _ => True
  | .compress, _ => True
  | .clear, _ => True

/-- The error of a command that is not legal (45_facade.md R221). -/
def illegalError : Instr → ErrCode
  | .decompress => .noTable
  | .trim | .analyze | .build | .derive | .pack | .compress | .clear => .sequence

/-- PHASE after a command that succeeds in the phase `p` (45_facade.md R221). -/
def phaseAfter : Instr → Phase → Phase
  | .trim, p => p
  | .analyze, _ => .analyzed
  | .build, _ => .treeBuilt
  | .derive, _ => .tableReady
  | .pack, _ => .packed
  | .compress, _ => .packed
  | .decompress, _ => .unpacked
  | .clear, _ => .idle

/-- TV after a command that succeeds with TV `v` (45_facade.md R221). -/
def tvAfter : Instr → Bool → Bool
  | .derive, _ => true
  | .compress, _ => true
  | .clear, _ => false
  | .trim, v => v
  | .analyze, v => v
  | .build, v => v
  | .pack, v => v
  | .decompress, v => v

/-- The state after `n` steps of the machine, if it answers next that long. -/
def stepsTo (n : Nat) (s t : State) : Prop := Host.Core.run Sys2Proof.core n s = .next t

end Sys2Proof.Machine
end

