-- ==== Sys2Proof/Certificates/Slice0/Obligations.lean ====
section
/-! DEFINITION. The statements for the provers.  Each docstring names the rule of spec/ it states, or the rules it
rests on.  Every statement about every state holds for every configuration in `cfg`, and never uses a value of
the free constants of Config.lean. -/

open Sys2Proof Sys2Proof.Machine

/-! ### Command words and steps -/

/-- 30_encoding.md R91: the eight words, and decoding as an exact match on all 32 bits, so that decoding the word of a
command gives the command and no other word gives any. -/
def Obligations.DecodingIsExactMatchOnTheTable : Prop :=
  (encode .trim = 0x00000001#32 ∧ encode .analyze = 0x00000002#32 ∧ encode .build = 0x00000003#32 ∧
    encode .derive = 0x00000004#32 ∧ encode .pack = 0x00000005#32 ∧ encode .compress = 0x00000010#32 ∧
    encode .decompress = 0x00000011#32 ∧ encode .clear = 0x00000020#32) ∧
  ∀ (w : Word) (i : Instr), decode w = some i ↔ w = encode i

/-- What a step adds around a command: its write to CMD is the oldest host event, the event leaves the queue and the bus
answers it, and then exactly the decoded command runs.  With no event pending the block waits and loses nothing
(60_exceptions.md R268).  The queue and the answer are the model's own fields (notes/assumptions/6.md). -/
def Obligations.StepRunsTheDecodedCommand : Prop :=
  (∀ (s : State) (w : Word) (rest : List HostEvent) (i : Instr),
    s.host = .write 0x00 (.word w) :: rest → decode w = some i →
    step s = exec i { s with host := rest, resp := .done }) ∧
  (∀ (s : State) (i : Instr), step (s.withFetchWord 32 (encode i).toNat) = exec i { s with resp := .done }) ∧
  ∀ s : State, s.host = [] → step s = .next s

/-- 60_exceptions.md R251: a word that is not one of the eight raises IllegalCommand; nothing else changes, OUT_LEN
included. -/
def Obligations.IllegalWordRaisesIllegalCommand : Prop :=
  ∀ (s : State) (w : Word) (rest : List HostEvent),
    s.host = .write 0x00 (.word w) :: rest →
    w ∉ [0x01#32, 0x02#32, 0x03#32, 0x04#32, 0x05#32, 0x10#32, 0x11#32, 0x20#32] →
    step s = .next { s with
      host := rest, resp := .done, err := .illegalCommand, errInfo := w, sticky := true }

/-- Every step answers a next state, whatever the state.  Of a command that is the spec's: it ends, with a result code where
it fails (70_reset_and_hazards.md R290, 60_exceptions.md R257).  That a step with nothing pending and a step at a
refused access answer a next state too, and that there is no fault at all, is the model's choice
(notes/assumptions/6.md, notes/assumptions/7.md, notes/assumptions/14.md). -/
def Obligations.EveryStepAnswersNext : Prop :=
  ∀ s : State, ∃ t : State, step s = .next t

/-! ### Reset and the invariants -/

/-- The reset state, for every configuration: the values of 10_state.md R45.  That the listings of IN and OUT are empty
says that none of their bytes has a known value.  The platform reset gives that state, with no trace of what was
before (70_reset_and_hazards.md R280, R281); the host's queue and mark and the model's counters are not the block's
(notes/assumptions/8.md). -/
def Obligations.ResetGivesTheListedValues : Prop :=
  (∀ c : Config,
    statusWord (State.resetWith c) = 0#32 ∧ errWord (State.resetWith c) = 0#32 ∧
    (State.resetWith c).errInfo = 0#32 ∧ (State.resetWith c).inLen = 0#32 ∧
    (State.resetWith c).outLen = 0#32 ∧ (State.resetWith c).nsym = 0#32 ∧
    (State.resetWith c).nodeCnt = 0#32 ∧ (State.resetWith c).root = 0#32 ∧
    (State.resetWith c).bitLen = 0#32 ∧ (State.resetWith c).pad = 0#32 ∧
    (State.resetWith c).cfg = c ∧
    (∀ s, entry (State.resetWith c).freq s = 0#32) ∧ (∀ k, nodeEntry (State.resetWith c) k = none) ∧
    (∀ s, entry (State.resetWith c).code s = none) ∧
    (State.resetWith c).inBuf = [] ∧ (State.resetWith c).outBuf = []) ∧
  ∀ (s : State) (rest : List HostEvent), s.host = .reset :: rest →
    step s = .next { State.resetWith s.cfg with
      host := rest, hostRefused := s.hostRefused, epoch := s.epoch + 1, draws := s.draws }

/-- The invariants of 10_state.md R44 hold after reset, for every configuration 00_scope.md R6 allows. -/
def Obligations.ResetMeetsTheInvariant : Prop :=
  (∀ c : Config, c.wf = true → Inv (State.resetWith c)) ∧ Inv State.reset

/-- Every step keeps the invariants of 10_state.md R44: lengths within the capacities, NSYM and the counts, the shape of
NODE, the prefix-free CODE, TV, PHASE, STICKY, the ranges of BIT_LEN and PAD, and the form of both buffers. -/
def Obligations.EveryStepKeepsTheInvariant : Prop :=
  ∀ s t : State, Inv s → step s = .next t → Inv t

/-- From TreeBuilt on NODE is the tree of FREQ, and from TableReady on CODE is the table of NODE: no sequence of host
events can part them while a staged compression is under way (42_codetable.md R165, 45_facade.md R221). -/
def Obligations.StagedTablesStayTogether : Prop :=
  (∀ c : Config, StagesAgree (State.resetWith c)) ∧
  ∀ s t : State, StagesAgree s → step s = .next t → StagesAgree t

/-! ### The host window -/

/-- 20_memory.md R69: each of the accesses (a) to (f) gets an error response and changes no state of the block; the
script is marked. -/
def Obligations.RefusedAccessChangesNothing : Prop :=
  ∀ (s : State) (e : HostEvent) (rest : List HostEvent),
    s.cfg.wf = true → s.host = e :: rest → RefusedAccess s.cfg e →
    step s = .next { s with host := rest, resp := .error, hostRefused := true }

/-- Every other access is accepted: a read is answered with data, a write is completed, and the script is not marked
(20_memory.md R61 to R68). -/
def Obligations.AcceptedAccessIsAnswered : Prop :=
  ∀ (s : State) (e : HostEvent) (rest : List HostEvent),
    s.cfg.wf = true → s.host = e :: rest → ¬ RefusedAccess s.cfg e → e ≠ .reset →
    ∃ t : State, step s = .next t ∧ t.hostRefused = s.hostRefused ∧
      (∀ off d, e = .write off d → t.resp = .done) ∧
      (∀ off w, e = .read off w → ∃ d : BusData, d.width = w ∧ t.resp = .data d)

/-- Each register read returns its register and changes nothing (20_memory.md R62, 10_state.md R23 to R33). -/
def Obligations.RegisterReadsReturnTheRegisters : Prop :=
  ∀ (s : State) (rest : List HostEvent) (off : Nat) (v : Word),
    (off, v) ∈ [(0x00, 0#32), (0x04, statusWord s), (0x08, errWord s), (0x0C, s.errInfo), (0x10, s.inLen),
      (0x14, s.outLen), (0x18, s.nsym), (0x1C, s.nodeCnt), (0x20, s.root), (0x24, s.bitLen), (0x28, s.pad),
      (0x2C, if s.cfg.pad8 then 1#32 else 0#32), (0x30, BitVec.ofNat 32 s.cfg.inCap),
      (0x34, BitVec.ofNat 32 s.cfg.outCap)] →
    s.host = .read off .word :: rest →
    step s = .next { s with host := rest, resp := .data (.word v) }

/-- The fields of STATUS and ERR: PHASE with its codes in 3:0, TV in 4, STICKY in 5, zeros above; the result code in
ERR[7:0], zeros above (10_state.md R24, R25, 60_exceptions.md R250). -/
def Obligations.StatusAndErrFieldsStandAtTheirBits : Prop :=
  (∀ s : State,
    ((statusWord s).extractLsb' 0 4).toNat = (match s.phase with
      | .idle => 0 | .analyzed => 1 | .treeBuilt => 2 | .tableReady => 3 | .packed => 4 | .unpacked => 5) ∧
    (statusWord s).getLsbD 4 = s.tv ∧ (statusWord s).getLsbD 5 = s.sticky ∧
    (statusWord s).extractLsb' 6 26 = 0#26) ∧
  (∀ s : State, (errWord s).toNat = (match s.err with
      | .ok => 0 | .illegalCommand => 1 | .sequence => 2 | .noTable => 3 | .missingCode => 4 | .format => 5
      | .overflow => 6))

/-- 20_memory.md R63: the word at `0x0400 + 4*s` reads `FREQ[s]`, and cannot be written. -/
def Obligations.FreqWindowReadsTheCounts : Prop :=
  ∀ (s : State) (rest : List HostEvent) (k : Byte),
    (s.host = .read (0x0400 + 4 * k.toNat) .word :: rest →
      step s = .next { s with host := rest, resp := .data (.word (entry s.freq k)) }) ∧
    ∀ v : Word, s.host = .write (0x0400 + 4 * k.toNat) (.word v) :: rest →
      step s = .next { s with host := rest, resp := .error, hostRefused := true }

/-- The four words of a NODE entry as the host reads them, field by field (30_encoding.md R103); entries at and above
NODE_CNT read as zero words (20_memory.md R64). -/
def Obligations.NodeWindowHasTheTabledLayout : Prop :=
  ∀ (s : State) (rest : List HostEvent) (k j : Nat), k < 512 → j < 4 →
    s.host = .read (0x2000 + 16 * k + 4 * j) .word :: rest →
    ∃ v : Word, step s = .next { s with host := rest, resp := .data (.word v) } ∧
      (s.nodeCnt.toNat ≤ k → v = 0#32) ∧
      (k < s.nodeCnt.toNat → s.node[k]? = none → v = 0#32) ∧
      (∀ (sym : Byte) (f : Word), k < s.nodeCnt.toNat → s.node[k]? = some (.leaf sym f) →
        [f, 1#1 ++ 0#1 ++ 0#22 ++ sym, 0#32, 0#32][j]? = some v) ∧
      (∀ (f : Word) (l r : Nat), k < s.nodeCnt.toNat → s.node[k]? = some (.internal f l r) →
        [f, 1#1 ++ 1#1 ++ 0#22 ++ 0#8, 0#7 ++ BitVec.ofNat 9 r ++ 0#7 ++ BitVec.ofNat 9 l, 0#32][j]? = some v)

/-- 30_encoding.md R104: the sixteen words of a CODE entry as the host reads them, bit by bit. -/
def Obligations.CodeWindowHasTheTabledLayout : Prop :=
  ∀ (s : State) (rest : List HostEvent) (k : Byte) (j : Nat), j < 16 →
    s.host = .read (0x4000 + 64 * k.toNat + 4 * j) .word :: rest →
    ∃ v : Word, step s = .next { s with host := rest, resp := .data (.word v) } ∧
      (entry s.code k = none → v = 0#32) ∧
      (∀ c : Bits, entry s.code k = some c → 1 ≤ c.length → c.length ≤ 255 →
        (j = 0 → v = 1#1 ++ 0#23 ++ BitVec.ofNat 8 c.length) ∧
        (1 ≤ j → j ≤ 8 → ∀ b < 32, v.getLsbD (31 - b) = c.getD (32 * (j - 1) + b) false) ∧
        (9 ≤ j → v = 0#32))

/-- 20_memory.md R66: the byte at `0x0100_0000 + i` is `IN[i]`, read and written by the host whatever IN_LEN is; a write
leaves every other byte of IN and everything else alone. -/
def Obligations.InWindowReadsAndWritesTheBuffer : Prop :=
  ∀ (s : State) (rest : List HostEvent) (i : Nat), i < s.cfg.inCap →
    (s.host = .read (0x01000000 + i) .byte :: rest →
      step s = .next { s with host := rest, resp := .data (.byte (inByte s i)) }) ∧
    ∀ v : Byte, s.host = .write (0x01000000 + i) (.byte v) :: rest →
      ∃ t : State, step s = .next t ∧ inByte t i = v ∧ (∀ j, j ≠ i → inByte t j = inByte s j) ∧
        t = { s with host := rest, resp := .done, inBuf := t.inBuf }

/-- A read of `OUT[i]` below OUT_CAP: the specified byte where there is one, else the next free value, which a later read
does not repeat by rule (20_memory.md R67, 10_state.md R40). -/
def Obligations.OutWindowReadsTheResultBytes : Prop :=
  ∀ (s : State) (rest : List HostEvent) (i : Nat), s.cfg.wf = true → i < s.cfg.outCap →
    s.host = .read (0x08000000 + i) .byte :: rest →
    (∀ v, outByte s i = some v →
      step s = .next { s with host := rest, resp := .data (.byte v) }) ∧
    (outByte s i = none →
      step s = .next { s with host := rest, resp := .data (.byte (Config.outUnspecified s.draws)),
                              draws := s.draws + 1 })

/-- A host access that issues no command has no effect but the byte or the length it writes (20_memory.md R70, R78,
10_state.md R26).  A read, whatever its place and width, changes nothing of the block, and counts a draw only where it
answers an unspecified byte of OUT (notes/assumptions/4.md).  A write is propagated to no table and no other register:
a byte write at the offset of `IN[i]` makes that byte the one written and leaves every other byte of IN; every other
write leaves IN; and IN_LEN is left by every write but that of a word up to IN_CAP at its own offset, which stores the
word and does nothing else.  The queue and the answer are the model's own (notes/assumptions/6.md). -/
def Obligations.PlainAccessesHaveNoSideEffect : Prop :=
  (∀ (s : State) (rest : List HostEvent) (off : Nat) (w : Width), s.host = .read off w :: rest →
    ∃ t : State, step s = .next t ∧
      t = { s with host := rest, resp := t.resp, hostRefused := t.hostRefused, draws := t.draws } ∧
      (t.draws ≠ s.draws → t.draws = s.draws + 1 ∧ w = .byte ∧
        ∃ i, outIndex s.cfg off = some i ∧ outByte s i = none)) ∧
  (∀ (s : State) (rest : List HostEvent) (off : Nat) (d : BusData),
    s.host = .write off d :: rest → (off ≠ 0x00 ∨ d.width ≠ .word) →
    ∃ t : State, step s = .next t ∧
      t = { s with host := rest, resp := t.resp, hostRefused := t.hostRefused,
                   inLen := t.inLen, inBuf := t.inBuf } ∧
      (∀ (v : Byte) (i : Nat), d = .byte v → inIndex s.cfg off = some i →
        inByte t i = v ∧ ∀ j, j ≠ i → inByte t j = inByte s j) ∧
      (d.width ≠ .byte ∨ inIndex s.cfg off = none → t.inBuf = s.inBuf) ∧
      (t.inLen ≠ s.inLen → ∃ v, d = .word v ∧ off = inLenOffset ∧ v.toNat ≤ s.cfg.inCap ∧ t.inLen = v)) ∧
  ∀ (s : State) (rest : List HostEvent) (v : Word), s.host = .write 0x10 (.word v) :: rest →
    v.toNat ≤ s.cfg.inCap → step s = .next { s with host := rest, resp := .done, inLen := v }

/-! ### TRIM and ANALYZE -/

/-- TRIM completes in every state: IN_LEN becomes the trimmed length, so the input becomes the trimmed input, and a second
TRIM changes nothing more; nothing but IN_LEN, ERR and ERRINFO is written (40_frequency.md R120). -/
def Obligations.TrimShortensTheInput : Prop :=
  ∀ s : State, ∃ t : State, exec .trim s = .next t ∧
    t = { s with inLen := BitVec.ofNat 32 (trim s.cfg.ws (inputBytes s)).length, err := .ok, errInfo := 0#32 } ∧
    inputBytes t = trim s.cfg.ws (inputBytes s) ∧ exec .trim t = .next t

/-- 40_frequency.md R121: `trim(b)` is the prefix of length `k`, for the greatest `k` with `k = 0` or `b[k-1]` not in WS.
The last clause, that the default WS is the six ASCII whitespace bytes, is general knowledge, as R121 itself says of
it (notes/assumptions/17.md). -/
def Obligations.TrimIsTheGreatestPrefixNotEndingInWhitespace : Prop :=
  (∀ (ws b : List Byte), ∃ k ≤ b.length, trim ws b = b.take k ∧
    (k = 0 ∨ ∃ x : Byte, b[k - 1]? = some x ∧ x ∉ ws) ∧
    ∀ j, k < j → j ≤ b.length → ¬ (j = 0 ∨ ∃ x : Byte, b[j - 1]? = some x ∧ x ∉ ws)) ∧
  ∀ x : Byte, x ∈ Config.standard.ws ↔ x ∈ [0x09#8, 0x0A#8, 0x0B#8, 0x0C#8, 0x0D#8, 0x20#8]

/-- 40_frequency.md R126: `F[s]` is the number of positions that hold `s`; the counts sum to the length, none overflows,
the table depends on the multiset of bytes only, and it has an entry exactly for the symbols that occur. -/
def Obligations.AnalyzeCountsEverySymbol : Prop :=
  ∀ b : List Byte, b.length < 2 ^ 32 →
    (∀ s, (entry (analyze b) s).toNat = ((List.range b.length).filter fun i => b[i]? == some s).length) ∧
    freqTotal (analyze b) = b.length ∧ (∀ s, (entry (analyze b) s).toNat ≤ b.length) ∧
    (∀ b', b.Perm b' → analyze b' = analyze b) ∧ (∀ s, entry (analyze b) s ≠ 0#32 ↔ s ∈ b)

/-- ANALYZE completes in every state: FREQ is the table of the input, NSYM the number of different symbols in it, PHASE is
Analyzed, and nothing else but ERR and ERRINFO is written (40_frequency.md R125). -/
def Obligations.AnalyzeFillsTheFrequencyTable : Prop :=
  ∀ s : State, ∃ t : State, exec .analyze s = .next t ∧
    t = { s with freq := analyze (inputBytes s), nsym := t.nsym, phase := .analyzed, err := .ok, errInfo := 0#32 } ∧
    t.nsym.toNat = (inputBytes s).dedup.length

/-! ### BUILD -/

/-- BUILD completes in phase Analyzed: NODE, NODE_CNT and ROOT become those of `build(FREQ)`, PHASE becomes TreeBuilt, and
nothing else but ERR and ERRINFO is written (41_tree.md R140). -/
def Obligations.BuildCompletesInPhaseAnalyzed : Prop :=
  ∀ s : State, s.phase = .analyzed →
    exec .build s = .next { s with
      node := buildNodes s.freq, nodeCnt := BitVec.ofNat 32 (buildNodes s.freq).length,
      root := BitVec.ofNat 32 (buildRoot s.freq), phase := .treeBuilt, err := .ok, errInfo := 0#32 }

/-- 60_exceptions.md R252: BUILD, DERIVE and PACK outside their phase raise Sequence with the phase and do none of their
work; PACK's error entry besides gives up OUT (R257). -/
def Obligations.StagedCommandsRequireTheirPhase : Prop :=
  ∀ s : State,
    (s.phase ≠ .analyzed → exec .build s = .next { s with
      err := .sequence, errInfo := s.phase.code.setWidth 32, sticky := true }) ∧
    (s.phase ≠ .treeBuilt → exec .derive s = .next { s with
      err := .sequence, errInfo := s.phase.code.setWidth 32, sticky := true }) ∧
    (s.phase ≠ .tableReady → exec .pack s = .next { s with
      err := .sequence, errInfo := s.phase.code.setWidth 32, sticky := true, outLen := 0#32, outBuf := [] })

/-- A pop takes the node with the least key out of the queue, the key being a strict total order: the smaller frequency
first, among equals the smaller index (41_tree.md R141, R142, 00_scope.md R13). -/
def Obligations.PopTakesTheLeastKey : Prop :=
  (∀ (ns : List Node) (x y : Nat), keyLt ns x y = true ↔
    (freqAt ns x).toNat < (freqAt ns y).toNat ∨ ((freqAt ns x).toNat = (freqAt ns y).toNat ∧ x < y)) ∧
  ∀ (ns : List Node) (q : List Nat), q.Nodup →
    (popMin ns q = none ↔ q = []) ∧
    ∀ m q', popMin ns q = some (m, q') → q.Perm (m :: q') ∧ ∀ k ∈ q', keyLt ns m k = true

/-- 41_tree.md R144: the shape of the tree of a table with `n >= 1` entries, (a) to (g).  (The premise is what
40_frequency.md R126 gives: no sum of counts exceeds 32 bits.) -/
def Obligations.BuildMakesAStrictTree : Prop :=
  ∀ f : Table Word, freqTotal f < 2 ^ 32 → 1 ≤ symbolCount f →
    leafCount (buildNodes f) = symbolCount f ∧
    (buildNodes f).length = 2 * symbolCount f - 1 ∧
    buildRoot f = (buildNodes f).length - 1 ∧
    (buildNodes f).take (symbolCount f) = leaves f ∧
    TreeOk (buildNodes f) ∧
    (freqAt (buildNodes f) (buildRoot f)).toNat = freqTotal f ∧
    (∀ (c : Bits) (k : Nat), follow (buildNodes f) (buildRoot f) c = some k →
      ((buildNodes f)[k]?.map Node.isLeaf) = some true →
      c.length ≤ symbolCount f - 1 ∧ (2 ≤ symbolCount f → 1 ≤ c.length)) ∧
    (∀ (k : Nat) (g : Word) (l r : Nat), (buildNodes f)[k]? = some (Node.internal g l r) → keyLt (buildNodes f) l r = true)

/-- The degenerate tables: no entry gives no tree (41_tree.md R146) and the empty code table (42_codetable.md R163); one
entry gives the single Leaf and no merge (41_tree.md R145) and the code "0" for its symbol (42_codetable.md R162). -/
def Obligations.NoneOrOneSymbolIsSpecialCased : Prop :=
  (∀ f : Table Word, (∀ s, entry f s = 0#32) → buildNodes f = [] ∧ buildRoot f = 0) ∧
  (∀ s : Byte, entry (treeTable []) s = none) ∧
  (∀ (f : Table Word) (s : Byte), entry f s ≠ 0#32 → (∀ x, x ≠ s → entry f x = 0#32) →
    buildNodes f = [.leaf s (entry f s)] ∧ buildRoot f = 0) ∧
  ∀ (sym : Byte) (f : Word) (s : Byte),
    entry (treeTable [.leaf sym f]) s = if s = sym then some [false] else none

/-! ### DERIVE -/

/-- DERIVE completes in phase TreeBuilt: all of CODE is replaced by the table derived from NODE, TV is set, PHASE becomes
TableReady, and nothing else but ERR and ERRINFO is written (42_codetable.md R160).  That the table is the one the
tree's paths give is `CodesAreThePathsToTheLeaves`. -/
def Obligations.DeriveCompletesInPhaseTreeBuilt : Prop :=
  ∀ s : State, NodesOk s → s.phase = .treeBuilt →
    exec .derive s = .next { s with
      code := treeTable s.node, tv := true, phase := .tableReady, err := .ok, errInfo := 0#32 }

/-- In a tree of two or more leaves the code of a symbol is the sequence of edge labels on the path from the root to its
leaf, 0 for left and 1 for right; a symbol without a leaf has none (42_codetable.md R161). -/
def Obligations.CodesAreThePathsToTheLeaves : Prop :=
  ∀ ns : List Node, TreeOk ns → 2 ≤ leafCount ns → ∀ (s : Byte) (c : Bits),
    entry (treeTable ns) s = some c ↔ symbolAtPath ns (ns.length - 1) c = some s

/-- 42_codetable.md R164: after any DERIVE, alone or inside COMPRESS, no code is a prefix of another, so `rev` is a
function: it gives exactly the symbol that has the code. -/
def Obligations.DerivedCodesArePrefixFree : Prop :=
  ∀ s t : State,
    ((NodesOk s ∧ s.phase = .treeBuilt ∧ exec .derive s = .next t) ∨ exec .compress s = .next t) →
    (∀ x y c d, x ≠ y → entry t.code x = some c → entry t.code y = some d → ¬ c <+: d ∧ ¬ d <+: c) ∧
    ∀ c x, rev t.code c = some x ↔ entry t.code x = some c

/-- BUILD and then DERIVE give a code to exactly the symbols of the frequency table, as many as NSYM, each of 1 to
`max 1 (n - 1)` bits, at most 255 (42_codetable.md R165, R166). -/
def Obligations.EverySymbolOfTheTableGetsACode : Prop :=
  ∀ f : Table Word, freqTotal f < 2 ^ 32 →
    (∀ s, (entry (tableOfFreq f) s).isSome = true ↔ entry f s ≠ 0#32) ∧
    (validCodes (tableOfFreq f)).length = symbolCount f ∧
    ∀ s c, entry (tableOfFreq f) s = some c →
      1 ≤ c.length ∧ c.length ≤ 255 ∧ c.length ≤ max 1 (symbolCount f - 1)

/-- The codes of a tree of two or more leaves are complete: every infinite bit sequence begins with exactly one code
(42_codetable.md R167). -/
def Obligations.TreeCodesAreComplete : Prop :=
  ∀ ns : List Node, TreeOk ns → 2 ≤ leafCount ns → ∀ bits : Nat → Bool,
    ∃ s, (∃ c, entry (treeTable ns) s = some c ∧ c = (List.range c.length).map bits) ∧
      ∀ s', (∃ c, entry (treeTable ns) s' = some c ∧ c = (List.range c.length).map bits) → s' = s

/-! ### PACK -/

/-- 43_pack.md R181: the length of the encoded bit-string, its bounds, when it is empty, and, for the table derived from
the input itself, as a sum over the symbols. -/
def Obligations.EncodedLengthIsTheSumOfCodeLengths : Prop :=
  ∀ (t : Table (Option Bits)) (b : List Byte) (d : Bits), CodesOk t → encodeBits t b = .ok d →
    d.length = (b.map fun x => ((entry t x).map List.length).getD 0).sum ∧
    b.length ≤ d.length ∧ d.length ≤ 255 * b.length ∧ (b.length ≤ 2 ^ 24 → d.length < 2 ^ 32) ∧
    (d = [] ↔ b = []) ∧
    (b.length < 2 ^ 32 → t = tableOfFreq (analyze b) →
      d.length = (allSymbols.map fun s => (entry (analyze b) s).toNat * codeLength t s).sum)

/-- 43_pack.md R183: the facts (a) to (e) about `pad`, in both PAD8 modes. -/
def Obligations.PadAppendsWhatItsHeaderSays : Prop :=
  ∀ (p : Bool) (b : Bits),
    (padBits p b).length = 8 + b.length + extra p b.length ∧ (b.length + extra p b.length) % 8 = 0 ∧
    val ((padBits p b).take 8) = extra p b.length ∧
    ((padBits p b).drop 8).take b.length = b ∧
    (padBits p b).drop (8 + b.length) = List.replicate (extra p b.length) false ∧
    (p = false → (b.length + extra p b.length) / 8 = (b.length + 7) / 8) ∧
    (p = true → 0 < b.length → (b.length + extra p b.length) / 8 = b.length / 8 + 1) ∧
    (b.length = 0 → (b.length + extra p b.length) / 8 = 0) ∧
    extra p b.length ≤ 8

/-- 43_pack.md R184: `toBytes` puts bit `8j + r` at bit `7 - r` of byte `j`; a length that is not a multiple of 8 is a
Format error of sub-cause 4; applied to a result of `pad` it never fails and its first byte is the padding count. -/
def Obligations.ToBytesPacksMostSignificantBitFirst : Prop :=
  (∀ p : Bits, p.length % 8 = 0 → ∃ a, toBytes p = .ok a ∧ a.length = p.length / 8 ∧
    ∀ (j r : Nat) (x : Byte), r ≤ 7 → a[j]? = some x → p[8 * j + r]? = some (x.getLsbD (7 - r))) ∧
  (∀ p : Bits, p.length % 8 ≠ 0 → toBytes p = .error ⟨.format, 4#32⟩) ∧
  ∀ (m : Bool) (b : Bits), ∃ a, toBytes (padBits m b) = .ok a ∧
    a[0]? = some (BitVec.ofNat 8 (extra m b.length))

/-- PACK completes in phase TableReady when every input symbol has a code and the artifact fits OUT: OUT holds the
artifact, OUT_LEN, BIT_LEN and PAD describe it, PHASE is Packed, and nothing else but ERR and ERRINFO is written
(43_pack.md R185). -/
def Obligations.PackWritesTheArtifact : Prop :=
  ∀ s : State, s.phase = .tableReady → (∀ b ∈ inputBytes s, entry s.code b ≠ none) →
    artifactLength s.cfg.pad8 (encodedLength s.code (inputBytes s)) ≤ s.cfg.outCap →
    ∃ a, packBytes s.cfg.pad8 s.code (inputBytes s) = .ok a ∧
      a.length = artifactLength s.cfg.pad8 (encodedLength s.code (inputBytes s)) ∧
      exec .pack s = .next { s with
        outBuf := Memory.ofBytes a, outLen := BitVec.ofNat 32 a.length,
        bitLen := BitVec.ofNat 32 (encodedLength s.code (inputBytes s)),
        pad := BitVec.ofNat 32 (extra s.cfg.pad8 (encodedLength s.code (inputBytes s))),
        phase := .packed, err := .ok, errInfo := 0#32 }

/-- PACK reports MissingCode with the least index whose symbol has no code, whether or not the artifact would fit, and
exposes nothing (43_pack.md R180, R185, 60_exceptions.md R254, R258). -/
def Obligations.PackReportsTheLeastMissingIndex : Prop :=
  ∀ (s : State) (i : Nat) (x : Byte), s.phase = .tableReady →
    (inputBytes s)[i]? = some x → entry s.code x = none →
    (∀ j < i, ∀ y, (inputBytes s)[j]? = some y → entry s.code y ≠ none) →
    exec .pack s = .next { s with
      err := .missingCode, errInfo := BitVec.ofNat 32 i, sticky := true, outLen := 0#32, outBuf := [] }

/-- 60_exceptions.md R256: PACK, COMPRESS and DECOMPRESS raise Overflow, with ERRINFO 0, when the complete result is longer
than OUT_CAP; what the stages of COMPRESS wrote stays. -/
def Obligations.OversizedResultsOverflow : Prop :=
  (∀ s : State, s.phase = .tableReady → (∀ b ∈ inputBytes s, entry s.code b ≠ none) →
    s.cfg.outCap < artifactLength s.cfg.pad8 (encodedLength s.code (inputBytes s)) →
    exec .pack s = .next { s with
      err := .overflow, errInfo := 0#32, sticky := true, outLen := 0#32, outBuf := [] }) ∧
  (∀ (s : State) (b : List Byte), b = trim s.cfg.ws (inputBytes s) →
    s.cfg.outCap < artifactLength s.cfg.pad8 (encodedLength (tableOfFreq (analyze b)) b) →
    exec .compress s = .next { s with
      inLen := BitVec.ofNat 32 b.length, freq := analyze b, nsym := BitVec.ofNat 32 (symbolCount (analyze b)),
      node := buildNodes (analyze b), nodeCnt := BitVec.ofNat 32 (buildNodes (analyze b)).length,
      root := BitVec.ofNat 32 (buildRoot (analyze b)), code := tableOfFreq (analyze b), tv := true,
      phase := .tableReady, err := .overflow, errInfo := 0#32, sticky := true, outLen := 0#32, outBuf := [] }) ∧
  (∀ (s : State) (d : Bits) (x : Nat) (out : List Byte), s.tv = true →
    unpadBits (fromBytes (inputBytes s)) = .ok (d, x) → decodeBits s.code d = .ok out →
    s.cfg.outCap < out.length →
    exec .decompress s = .next { s with
      err := .overflow, errInfo := 0#32, sticky := true, outLen := 0#32, outBuf := [] })

/-! ### DECOMPRESS -/

/-- 44_unpack.md R200: `fromBytes` is `bin8` of each byte in order, never fails, and is the inverse of `toBytes` on both
sides. -/
def Obligations.FromBytesInvertsToBytes : Prop :=
  (∀ a : List Byte, (fromBytes a).length = 8 * a.length ∧
    (∀ (j r : Nat) (x : Byte), r ≤ 7 → a[j]? = some x → (fromBytes a)[8 * j + r]? = some (x.getLsbD (7 - r))) ∧
    toBytes (fromBytes a) = .ok a) ∧
  fromBytes [] = [] ∧
  ∀ p : Bits, p.length % 8 = 0 → ∃ a, toBytes p = .ok a ∧ fromBytes a = p

/-- 44_unpack.md R201: the two Format errors of `unpad`, its result otherwise for any header value and any removed bits,
and that it undoes `pad` in both modes. -/
def Obligations.UnpadChecksTheHeaderAndUndoesPad : Prop :=
  (∀ u : Bits, u.length < 8 → unpadBits u = .error ⟨.format, 2#32⟩) ∧
  (∀ (h : Byte) (r : Bits), r.length < h.toNat → unpadBits (bin8 h ++ r) = .error ⟨.format, 3#32⟩) ∧
  (∀ (h : Byte) (d r : Bits), r.length = h.toNat → unpadBits (bin8 h ++ (d ++ r)) = .ok (d, h.toNat)) ∧
  ∀ (m : Bool) (b : Bits), unpadBits (padBits m b) = .ok (b, extra m b.length)

/-- Decoding what was encoded with the same prefix-free table gives it back (44_unpack.md R203 (a), (b), (c)). -/
def Obligations.DecodeUndoesEncode : Prop :=
  ∀ (t : Table (Option Bits)) (b : List Byte), CodesOk t → (∀ x ∈ b, entry t x ≠ none) →
    ∃ d, encodeBits t b = .ok d ∧ decodeBits t d = .ok b ∧ b.length ≤ d.length

/-- When decoding fails (44_unpack.md R203 (d)): against a table from a tree of two or more leaves exactly when the bits
end inside a code; against a single code "0" exactly when there is a 1 bit; against the empty table exactly when there
is a bit; and always with Format, sub-cause 1. -/
def Obligations.DecodeFailsExactlyInsideACode : Prop :=
  (∀ ns : List Node, TreeOk ns → 2 ≤ leafCount ns → ∀ d : Bits,
    (∃ e, decodeBits (treeTable ns) d = .error e) ↔
    ∃ b d' p s c, encodeBits (treeTable ns) b = .ok d' ∧ d = d' ++ p ∧ p ≠ [] ∧
      entry (treeTable ns) s = some c ∧ p <+: c ∧ p ≠ c) ∧
  (∀ (t : Table (Option Bits)) (s : Byte), entry t s = some [false] → (∀ x, x ≠ s → entry t x = none) →
    ∀ d : Bits, (∃ e, decodeBits t d = .error e) ↔ true ∈ d) ∧
  (∀ t : Table (Option Bits), (∀ x, entry t x = none) →
    ∀ d : Bits, (∃ e, decodeBits t d = .error e) ↔ d ≠ []) ∧
  ∀ (t : Table (Option Bits)) (d : Bits) (e : Raise), decodeBits t d = .error e → e = ⟨.format, 1#32⟩

/-- 44_unpack.md R206: for every byte sequence whose symbols all have codes in a prefix-free table,
`unpack(pack(b, T), T) = b`, in both PAD8 modes. -/
def Obligations.UnpackUndoesPackInBothPadModes : Prop :=
  ∀ (t : Table (Option Bits)) (b : List Byte), CodesOk t → (∀ x ∈ b, entry t x ≠ none) →
    ∀ m : Bool, ∃ a, packBytes m t b = .ok a ∧ unpackBytes t a = .ok b

/-- DECOMPRESS completes when a table is held, the header fits the payload, the bits decode and the symbols fit OUT: OUT
holds the symbols, BIT_LEN and PAD describe the artifact, PHASE is Unpacked, and nothing else but ERR and ERRINFO is
written; any phase will do (44_unpack.md R204). -/
def Obligations.DecompressWritesTheSymbols : Prop :=
  ∀ (s : State) (h : Byte) (p : List Byte) (out : List Byte), s.tv = true → inputBytes s = h :: p →
    h.toNat ≤ 8 * p.length → decodeBits s.code ((fromBytes p).take (8 * p.length - h.toNat)) = .ok out →
    out.length ≤ s.cfg.outCap →
    exec .decompress s = .next { s with
      outBuf := Memory.ofBytes out, outLen := BitVec.ofNat 32 out.length,
      bitLen := BitVec.ofNat 32 (8 * p.length - h.toNat), pad := h.setWidth 32,
      phase := .unpacked, err := .ok, errInfo := 0#32 }

/-- 60_exceptions.md R253: DECOMPRESS without a table raises NoTable; there is none after reset and after CLEAR, until a
DERIVE or a COMPRESS makes one. -/
def Obligations.DecompressWithoutATableRaisesNoTable : Prop :=
  (∀ s : State, s.tv = false → exec .decompress s = .next { s with
    err := .noTable, errInfo := 0#32, sticky := true, outLen := 0#32, outBuf := [] }) ∧
  (∀ c : Config, (State.resetWith c).tv = false) ∧
  (∀ s t : State, exec .clear s = .next t → t.tv = false) ∧
  (∀ (i : Instr) (s t : State), exec i s = .next t → s.tv = false → t.tv = true → i = .derive ∨ i = .compress) ∧
  ∀ s t : State, (exec .derive s = .next t ∧ t.err = .ok) ∨ exec .compress s = .next t → t.tv = true

/-- The Format errors of DECOMPRESS in their order: no header byte, a header greater than the payload, bits left
unmatched, the last whatever OUT_CAP is (44_unpack.md R204, 60_exceptions.md R255, R258). -/
def Obligations.DecompressReportsFormatErrorsInOrder : Prop :=
  ∀ s : State, s.tv = true →
    (inputBytes s = [] → exec .decompress s = .next { s with
      err := .format, errInfo := 2#32, sticky := true, outLen := 0#32, outBuf := [] }) ∧
    (∀ h p, inputBytes s = h :: p → 8 * p.length < h.toNat → exec .decompress s = .next { s with
      err := .format, errInfo := 3#32, sticky := true, outLen := 0#32, outBuf := [] }) ∧
    (∀ h p e, inputBytes s = h :: p → h.toNat ≤ 8 * p.length →
      decodeBits s.code ((fromBytes p).take (8 * p.length - h.toNat)) = .error e →
      exec .decompress s = .next { s with
        err := .format, errInfo := 1#32, sticky := true, outLen := 0#32, outBuf := [] })

/-! ### COMPRESS and CLEAR -/

/-- COMPRESS completes in every phase when the artifact fits OUT: IN_LEN is the trimmed length, FREQ, NSYM, NODE, NODE_CNT,
ROOT and CODE are those of the trimmed input, OUT holds its artifact, and nothing else but ERR and ERRINFO is written
(45_facade.md R222). -/
def Obligations.CompressPacksTheTrimmedInput : Prop :=
  ∀ (s : State) (b : List Byte), b = trim s.cfg.ws (inputBytes s) →
    artifactLength s.cfg.pad8 (encodedLength (tableOfFreq (analyze b)) b) ≤ s.cfg.outCap →
    ∃ a, packBytes s.cfg.pad8 (tableOfFreq (analyze b)) b = .ok a ∧
      exec .compress s = .next { s with
        inLen := BitVec.ofNat 32 b.length, freq := analyze b, nsym := BitVec.ofNat 32 (symbolCount (analyze b)),
        node := buildNodes (analyze b), nodeCnt := BitVec.ofNat 32 (buildNodes (analyze b)).length,
        root := BitVec.ofNat 32 (buildRoot (analyze b)), code := tableOfFreq (analyze b), tv := true,
        outBuf := Memory.ofBytes a, outLen := BitVec.ofNat 32 a.length,
        bitLen := BitVec.ofNat 32 (encodedLength (tableOfFreq (analyze b)) b),
        pad := BitVec.ofNat 32 (extra s.cfg.pad8 (encodedLength (tableOfFreq (analyze b)) b)),
        phase := .packed, err := .ok, errInfo := 0#32 }

/-- COMPRESS ends in the state in which TRIM, ANALYZE, BUILD, DERIVE and PACK end when issued one after the other
(45_facade.md R222). -/
def Obligations.CompressEqualsItsFiveStages : Prop :=
  ∀ s : State, exec .compress s = execAll [.trim, .analyze, .build, .derive, .pack] s

/-- The round trip as two commands: after a COMPRESS that succeeded, a DECOMPRESS of its artifact with the table it left
succeeds and gives the trimmed input (45_facade.md R225). -/
def Obligations.DecompressUndoesCompress : Prop :=
  ∀ s t u : State, s.cfg.wf = true → exec .compress s = .next t → t.err = .ok →
    u.cfg = t.cfg → u.tv = t.tv → u.code = t.code → inputBytes u = outputBytes t →
    (trim s.cfg.ws (inputBytes s)).length ≤ s.cfg.outCap →
    ∃ v : State, exec .decompress u = .next v ∧ v.err = .ok ∧ v.phase = .unpacked ∧
      outputBytes v = trim s.cfg.ws (inputBytes s)

/-- The round trip as a host script, step by step through the window: `ld IN, b`, `cmd COMPRESS`, `mvout`,
`cmd DECOMPRESS` (45_facade.md R225, 30_encoding.md R96). -/
def Obligations.RoundTripScriptReturnsTheTrimmedInput : Prop :=
  ∀ (s : State) (b : List Byte), s.cfg.wf = true → b.length ≤ s.cfg.inCap →
    ∃ t : State, stepsTo (b.length + 2) { s with host := ldIn b ++ [cmd .compress] } t ∧
      (t.err = .ok → (outputBytes t).length ≤ s.cfg.inCap → (trim s.cfg.ws b).length ≤ s.cfg.outCap →
        ∃ u : State,
          stepsTo (2 * (outputBytes t).length + 3)
            { t with host := mvout (outputBytes t) ++ [cmd .decompress] } u ∧
          u.err = .ok ∧ outputBytes u = trim s.cfg.ws b)

/-- Empty input, or input of whitespace alone, compresses to the header byte 0 and nothing else, in both PAD8 modes, with
an empty but valid table; decompressing that byte gives the empty output (45_facade.md R222, R227). -/
def Obligations.EmptyInputRoundTrips : Prop :=
  ∀ s : State, s.cfg.wf = true → trim s.cfg.ws (inputBytes s) = [] →
    ∃ t : State, exec .compress s = .next t ∧ t.err = .ok ∧ t.tv = true ∧ t.inLen = 0#32 ∧ t.nsym = 0#32 ∧
      t.nodeCnt = 0#32 ∧ t.node = [] ∧ (∀ x, entry t.code x = none) ∧ t.outLen = 1#32 ∧
      outputBytes t = [0x00#8] ∧ t.bitLen = 0#32 ∧ t.pad = 0#32 ∧
      ∀ u : State, u.tv = true → u.cfg = t.cfg → inputBytes u = [0x00#8] →
        ∃ v : State, exec .decompress u = .next v ∧ v.err = .ok ∧ v.outLen = 0#32 ∧ outputBytes v = []

/-- Input of one repeated symbol uses the single-leaf case: one node, the code "0", as many bits as symbols, and it round
trips (45_facade.md R226, 41_tree.md R145, 42_codetable.md R162). -/
def Obligations.OneRepeatedSymbolRoundTrips : Prop :=
  ∀ (s : State) (x : Byte) (n : Nat), s.cfg.wf = true → 1 ≤ n → x ∉ s.cfg.ws →
    inputBytes s = List.replicate n x → n ≤ s.cfg.outCap → artifactLength s.cfg.pad8 n ≤ s.cfg.outCap →
    ∃ t : State, exec .compress s = .next t ∧ t.err = .ok ∧ t.nsym = 1#32 ∧ t.nodeCnt = 1#32 ∧
      t.node = [.leaf x (BitVec.ofNat 32 n)] ∧
      (∀ y, entry t.code y = if y = x then some [false] else none) ∧ t.bitLen.toNat = n ∧
      outputBytes t = BitVec.ofNat 8 (extra s.cfg.pad8 n) ::
        List.replicate ((n + extra s.cfg.pad8 n) / 8) 0x00#8 ∧
      ∀ u : State, u.tv = true → u.cfg = t.cfg → u.code = t.code → inputBytes u = outputBytes t →
        ∃ v : State, exec .decompress u = .next v ∧ v.err = .ok ∧ outputBytes v = List.replicate n x

/-- COMPRESS is a function of the input bytes and the parameters alone: neither the phase nor any table before it matters
(45_facade.md R230).  BIT_LEN and PAD are compared after a success only: an Overflow leaves them as they were (R222). -/
def Obligations.CompressDependsOnTheInputAlone : Prop :=
  ∀ s s' t t' : State, s.cfg = s'.cfg → inputBytes s = inputBytes s' →
    exec .compress s = .next t → exec .compress s' = .next t' →
    t.inLen = t'.inLen ∧ t.freq = t'.freq ∧ t.nsym = t'.nsym ∧ t.node = t'.node ∧ t.nodeCnt = t'.nodeCnt ∧
    t.root = t'.root ∧ t.code = t'.code ∧ outputBytes t = outputBytes t' ∧ t.outLen = t'.outLen ∧
    t.phase = t'.phase ∧ t.tv = t'.tv ∧ t.err = t'.err ∧ t.errInfo = t'.errInfo ∧
    (t.err = .ok → t.bitLen = t'.bitLen ∧ t.pad = t'.pad)

/-- 45_facade.md R229: the padding invariant after a successful PACK or COMPRESS. -/
def Obligations.ArtifactMeetsThePaddingInvariant : Prop :=
  ∀ (i : Instr) (s t : State), (i = .pack ∨ i = .compress) → Inv s → exec i s = .next t → t.err = .ok →
    8 * t.outLen.toNat = 8 + t.bitLen.toNat + t.pad.toNat ∧
    (outputBytes t)[0]? = some (t.pad.setWidth 8) ∧
    (t.cfg.pad8 = false → t.pad.toNat ≤ 7) ∧
    (t.cfg.pad8 = true → t.pad.toNat ≤ 8 ∧ (t.pad.toNat = 0 → inputBytes t = [])) ∧
    (fromBytes (outputBytes t)).drop (8 * t.outLen.toNat - t.pad.toNat) = List.replicate t.pad.toNat false

/-- 45_facade.md R223: CLEAR completes in every state, and leaves the reset state but for IN_LEN and IN (the host's queue,
the bus's answer and the model's counters are not the block's); a DECOMPRESS after it raises NoTable; and no other
command clears STICKY or TV. -/
def Obligations.ClearLeavesAFreshInstance : Prop :=
  (∀ s : State, exec .clear s = .next { State.resetWith s.cfg with
    inLen := s.inLen, inBuf := s.inBuf, host := s.host, resp := s.resp, hostRefused := s.hostRefused,
    epoch := s.epoch, draws := s.draws }) ∧
  (∀ s t u : State, exec .clear s = .next t → exec .decompress t = .next u → u.err = .noTable) ∧
  ∀ (i : Instr) (s t : State), exec i s = .next t → i ≠ .clear →
    (s.sticky = true → t.sticky = true) ∧ (s.tv = true → t.tv = true)

/-! ### Rules over all commands -/

/-- 45_facade.md R221: legality, the error otherwise, PHASE and TV after success and after failure, for every command; and
nothing but a command and the platform reset moves PHASE.  The last clause speaks through the host's queue, the bus's
answer and the reset event, which are the model's own (notes/assumptions/6.md, notes/assumptions/8.md). -/
def Obligations.CommandsFollowThePhaseTable : Prop :=
  (∀ (i : Instr) (s t : State), exec i s = .next t →
    (t.err = .ok → t.phase = phaseAfter i s.phase ∧ t.tv = tvAfter i s.tv ∧ legal i s) ∧
    (¬ legal i s → t.err = illegalError i) ∧
    (t.err ≠ .ok → i ≠ .compress → t.phase = s.phase ∧ t.tv = s.tv) ∧
    (t.err ≠ .ok → i = .compress → t.err = .overflow ∧ t.phase = .tableReady ∧ t.tv = true) ∧
    (t.err = .ok → PhaseOk s → i = .pack ∨ i = .decompress → t.tv = true)) ∧
  ∀ s t : State, step s = .next t → t.phase ≠ s.phase →
    (∃ rest i, s.host = cmd i :: rest ∧ exec i { s with host := rest, resp := .done } = .next t) ∨
    (∃ rest, s.host = .reset :: rest ∧ t.phase = .idle)

/-- Error entry: a failing command other than COMPRESS changes ERR, ERRINFO and STICKY and, for PACK and DECOMPRESS, sets
OUT_LEN to 0 and leaves no byte of OUT specified; nothing else (60_exceptions.md R257). -/
def Obligations.FailedCommandsChangeOnlyTheErrorState : Prop :=
  ∀ (i : Instr) (s t : State), exec i s = .next t → t.err ≠ .ok → i ≠ .compress →
    t = { s with
      err := t.err, errInfo := t.errInfo, sticky := true,
      outLen := if i = .pack ∨ i = .decompress then 0#32 else s.outLen,
      outBuf := if i = .pack ∨ i = .decompress then [] else s.outBuf }

/-- Every command overwrites ERR and ERRINFO: what it ends in does not depend on what they held, and a success leaves 0 in
both; STICKY collects failures until CLEAR (10_state.md R24, R25, R43, 60_exceptions.md R260). -/
def Obligations.ErrAndStickyRecordTheOutcome : Prop :=
  (∀ (i : Instr) (s : State) (e : ErrCode) (n : Word), exec i { s with err := e, errInfo := n } = exec i s) ∧
  ∀ (i : Instr) (s t : State), exec i s = .next t →
    (t.err = .ok → t.errInfo = 0#32) ∧
    (i ≠ .clear → (t.sticky = true ↔ s.sticky = true ∨ t.err ≠ .ok)) ∧
    (i = .clear → t.sticky = false ∧ t.err = .ok)

/-- Re-issuing a failed command on the state it left raises the same error with the same detail (60_exceptions.md R260). -/
def Obligations.FailedCommandsFailAgain : Prop :=
  ∀ (i : Instr) (s t : State), exec i s = .next t → t.err ≠ .ok →
    ∃ u : State, exec i t = .next u ∧ u.err = t.err ∧ u.errInfo = t.errInfo

/-- What no command writes: IN (10_state.md R39), the constants (R33), the host's side; only TRIM and COMPRESS write
IN_LEN, and they never raise it (R26); TRIM, ANALYZE, BUILD, PACK and DECOMPRESS, succeeding or failing, retain CODE and
TV (45_facade.md R224).  And no event at all changes a constant, reset included (R33). -/
def Obligations.CommandsLeaveInConstantsAndTheRetainedTableAlone : Prop :=
  (∀ (i : Instr) (s t : State), exec i s = .next t →
    (∀ j, inByte t j = inByte s j) ∧ t.inBuf = s.inBuf ∧ t.cfg = s.cfg ∧ t.host = s.host ∧ t.resp = s.resp ∧
    t.hostRefused = s.hostRefused ∧ t.epoch = s.epoch ∧ t.draws = s.draws ∧
    (i ≠ .trim → i ≠ .compress → t.inLen = s.inLen) ∧ t.inLen.toNat ≤ s.inLen.toNat ∧
    (i ∈ [Instr.trim, .analyze, .build, .pack, .decompress] → t.code = s.code ∧ t.tv = s.tv)) ∧
  ∀ s t : State, step s = .next t → t.cfg = s.cfg
end

