-- ==== Sys2Proof/Laws/Bits.lean ====
section
/-! SUPPORT. Bit-strings: the laws of `bin8` and `val` (00_scope.md R11), and of `toBytes` and `fromBytes`. -/

namespace Sys2Proof.Machine

open Sys2Proof

@[simp] theorem val_nil : val [] = 0 := rfl

/-- The document's recursion: `val(b ++ "x") = 2*val(b) + x` (00_scope.md R11). -/
theorem val_snoc (b : Bits) (x : Bool) : val (b ++ [x]) = 2 * val b + x.toNat := by
  simp [val]

theorem val_append (b c : Bits) : val (b ++ c) = 2 ^ c.length * val b + val c := by
  induction c using List.reverseRecOn with
  | nil => simp
  | append_singleton c x ih =>
    rw [← List.append_assoc, val_snoc, val_snoc, ih, List.length_append, List.length_singleton, pow_succ]
    ring

theorem val_lt (b : Bits) : val b < 2 ^ b.length := by
  induction b using List.reverseRecOn with
  | nil => simp
  | append_singleton c x ih =>
    rw [val_snoc, List.length_append, List.length_singleton, pow_succ]
    have := Bool.toNat_le x
    omega

@[simp] theorem bin8_length (b : Byte) : (bin8 b).length = 8 := rfl

/-- `val(bin8(n)) = n` (00_scope.md R11). -/
@[simp] theorem val_bin8 (b : Byte) : val (bin8 b) = b.toNat := by
  revert b; decide +kernel

@[simp] theorem byteOfBits_bin8 (b : Byte) : byteOfBits (bin8 b) = b := by
  simp [byteOfBits]

/-- `bin8` of the byte 8 bits spell is those bits. -/
theorem bin8_byteOfBits (b7 b6 b5 b4 b3 b2 b1 b0 : Bool) :
    bin8 (byteOfBits [b7, b6, b5, b4, b3, b2, b1, b0]) = [b7, b6, b5, b4, b3, b2, b1, b0] := by
  revert b7 b6 b5 b4 b3 b2 b1 b0; decide +kernel

@[simp] theorem fromBytes_nil : fromBytes [] = [] := rfl

@[simp] theorem fromBytes_cons (b : Byte) (bs : List Byte) : fromBytes (b :: bs) = bin8 b ++ fromBytes bs := rfl

theorem fromBytes_length (bs : List Byte) : (fromBytes bs).length = 8 * bs.length := by
  induction bs with
  | nil => rfl
  | cons b bs ih => simp [ih]; omega

/-- One byte of `toBytes`. -/
theorem toBytes_bin8_append (b : Byte) {p : Bits} {bs : List Byte} (h : toBytes p = .ok bs) :
    toBytes (bin8 b ++ p) = .ok (b :: bs) := by
  have hb : byteOfBits (bin8 b) = b := byteOfBits_bin8 b
  simp only [bin8, List.cons_append, List.nil_append, toBytes, h] at hb ⊢
  rw [hb]

end Sys2Proof.Machine
end

