-- ==== Sys2Proof/Laws/State.lean ====
section
/-! SUPPORT. What each register write does to each field of State: one lemma per field and write, true by rfl. -/

namespace Sys2Proof.Machine

open Sys2Proof

/-! ### setInLen -/

@[simp] theorem setInLen_cfg (n : Word) (s : State) : (setInLen n s).cfg = s.cfg := rfl
@[simp] theorem setInLen_phase (n : Word) (s : State) : (setInLen n s).phase = s.phase := rfl
@[simp] theorem setInLen_tv (n : Word) (s : State) : (setInLen n s).tv = s.tv := rfl
@[simp] theorem setInLen_sticky (n : Word) (s : State) : (setInLen n s).sticky = s.sticky := rfl
@[simp] theorem setInLen_err (n : Word) (s : State) : (setInLen n s).err = s.err := rfl
@[simp] theorem setInLen_errInfo (n : Word) (s : State) : (setInLen n s).errInfo = s.errInfo := rfl
@[simp] theorem setInLen_inLen (n : Word) (s : State) : (setInLen n s).inLen = n := rfl
@[simp] theorem setInLen_outLen (n : Word) (s : State) : (setInLen n s).outLen = s.outLen := rfl
@[simp] theorem setInLen_nsym (n : Word) (s : State) : (setInLen n s).nsym = s.nsym := rfl
@[simp] theorem setInLen_nodeCnt (n : Word) (s : State) : (setInLen n s).nodeCnt = s.nodeCnt := rfl
@[simp] theorem setInLen_root (n : Word) (s : State) : (setInLen n s).root = s.root := rfl
@[simp] theorem setInLen_bitLen (n : Word) (s : State) : (setInLen n s).bitLen = s.bitLen := rfl
@[simp] theorem setInLen_pad (n : Word) (s : State) : (setInLen n s).pad = s.pad := rfl
@[simp] theorem setInLen_freq (n : Word) (s : State) : (setInLen n s).freq = s.freq := rfl
@[simp] theorem setInLen_node (n : Word) (s : State) : (setInLen n s).node = s.node := rfl
@[simp] theorem setInLen_code (n : Word) (s : State) : (setInLen n s).code = s.code := rfl
@[simp] theorem setInLen_inBuf (n : Word) (s : State) : (setInLen n s).inBuf = s.inBuf := rfl
@[simp] theorem setInLen_outBuf (n : Word) (s : State) : (setInLen n s).outBuf = s.outBuf := rfl
@[simp] theorem setInLen_host (n : Word) (s : State) : (setInLen n s).host = s.host := rfl
@[simp] theorem setInLen_resp (n : Word) (s : State) : (setInLen n s).resp = s.resp := rfl
@[simp] theorem setInLen_hostRefused (n : Word) (s : State) : (setInLen n s).hostRefused = s.hostRefused := rfl
@[simp] theorem setInLen_epoch (n : Word) (s : State) : (setInLen n s).epoch = s.epoch := rfl
@[simp] theorem setInLen_draws (n : Word) (s : State) : (setInLen n s).draws = s.draws := rfl

/-! ### setPhase -/

@[simp] theorem setPhase_cfg (p : Phase) (s : State) : (setPhase p s).cfg = s.cfg := rfl
@[simp] theorem setPhase_phase (p : Phase) (s : State) : (setPhase p s).phase = p := rfl
@[simp] theorem setPhase_tv (p : Phase) (s : State) : (setPhase p s).tv = s.tv := rfl
@[simp] theorem setPhase_sticky (p : Phase) (s : State) : (setPhase p s).sticky = s.sticky := rfl
@[simp] theorem setPhase_err (p : Phase) (s : State) : (setPhase p s).err = s.err := rfl
@[simp] theorem setPhase_errInfo (p : Phase) (s : State) : (setPhase p s).errInfo = s.errInfo := rfl
@[simp] theorem setPhase_inLen (p : Phase) (s : State) : (setPhase p s).inLen = s.inLen := rfl
@[simp] theorem setPhase_outLen (p : Phase) (s : State) : (setPhase p s).outLen = s.outLen := rfl
@[simp] theorem setPhase_nsym (p : Phase) (s : State) : (setPhase p s).nsym = s.nsym := rfl
@[simp] theorem setPhase_nodeCnt (p : Phase) (s : State) : (setPhase p s).nodeCnt = s.nodeCnt := rfl
@[simp] theorem setPhase_root (p : Phase) (s : State) : (setPhase p s).root = s.root := rfl
@[simp] theorem setPhase_bitLen (p : Phase) (s : State) : (setPhase p s).bitLen = s.bitLen := rfl
@[simp] theorem setPhase_pad (p : Phase) (s : State) : (setPhase p s).pad = s.pad := rfl
@[simp] theorem setPhase_freq (p : Phase) (s : State) : (setPhase p s).freq = s.freq := rfl
@[simp] theorem setPhase_node (p : Phase) (s : State) : (setPhase p s).node = s.node := rfl
@[simp] theorem setPhase_code (p : Phase) (s : State) : (setPhase p s).code = s.code := rfl
@[simp] theorem setPhase_inBuf (p : Phase) (s : State) : (setPhase p s).inBuf = s.inBuf := rfl
@[simp] theorem setPhase_outBuf (p : Phase) (s : State) : (setPhase p s).outBuf = s.outBuf := rfl
@[simp] theorem setPhase_host (p : Phase) (s : State) : (setPhase p s).host = s.host := rfl
@[simp] theorem setPhase_resp (p : Phase) (s : State) : (setPhase p s).resp = s.resp := rfl
@[simp] theorem setPhase_hostRefused (p : Phase) (s : State) : (setPhase p s).hostRefused = s.hostRefused := rfl
@[simp] theorem setPhase_epoch (p : Phase) (s : State) : (setPhase p s).epoch = s.epoch := rfl
@[simp] theorem setPhase_draws (p : Phase) (s : State) : (setPhase p s).draws = s.draws := rfl

/-! ### writeIn -/

@[simp] theorem writeIn_cfg (i : Nat) (v : Byte) (s : State) : (writeIn i v s).cfg = s.cfg := rfl
@[simp] theorem writeIn_phase (i : Nat) (v : Byte) (s : State) : (writeIn i v s).phase = s.phase := rfl
@[simp] theorem writeIn_tv (i : Nat) (v : Byte) (s : State) : (writeIn i v s).tv = s.tv := rfl
@[simp] theorem writeIn_sticky (i : Nat) (v : Byte) (s : State) : (writeIn i v s).sticky = s.sticky := rfl
@[simp] theorem writeIn_err (i : Nat) (v : Byte) (s : State) : (writeIn i v s).err = s.err := rfl
@[simp] theorem writeIn_errInfo (i : Nat) (v : Byte) (s : State) : (writeIn i v s).errInfo = s.errInfo := rfl
@[simp] theorem writeIn_inLen (i : Nat) (v : Byte) (s : State) : (writeIn i v s).inLen = s.inLen := rfl
@[simp] theorem writeIn_outLen (i : Nat) (v : Byte) (s : State) : (writeIn i v s).outLen = s.outLen := rfl
@[simp] theorem writeIn_nsym (i : Nat) (v : Byte) (s : State) : (writeIn i v s).nsym = s.nsym := rfl
@[simp] theorem writeIn_nodeCnt (i : Nat) (v : Byte) (s : State) : (writeIn i v s).nodeCnt = s.nodeCnt := rfl
@[simp] theorem writeIn_root (i : Nat) (v : Byte) (s : State) : (writeIn i v s).root = s.root := rfl
@[simp] theorem writeIn_bitLen (i : Nat) (v : Byte) (s : State) : (writeIn i v s).bitLen = s.bitLen := rfl
@[simp] theorem writeIn_pad (i : Nat) (v : Byte) (s : State) : (writeIn i v s).pad = s.pad := rfl
@[simp] theorem writeIn_freq (i : Nat) (v : Byte) (s : State) : (writeIn i v s).freq = s.freq := rfl
@[simp] theorem writeIn_node (i : Nat) (v : Byte) (s : State) : (writeIn i v s).node = s.node := rfl
@[simp] theorem writeIn_code (i : Nat) (v : Byte) (s : State) : (writeIn i v s).code = s.code := rfl
@[simp] theorem writeIn_inBuf (i : Nat) (v : Byte) (s : State) : (writeIn i v s).inBuf = Memory.write s.inBuf i v := rfl
@[simp] theorem writeIn_outBuf (i : Nat) (v : Byte) (s : State) : (writeIn i v s).outBuf = s.outBuf := rfl
@[simp] theorem writeIn_host (i : Nat) (v : Byte) (s : State) : (writeIn i v s).host = s.host := rfl
@[simp] theorem writeIn_resp (i : Nat) (v : Byte) (s : State) : (writeIn i v s).resp = s.resp := rfl
@[simp] theorem writeIn_hostRefused (i : Nat) (v : Byte) (s : State) : (writeIn i v s).hostRefused = s.hostRefused := rfl
@[simp] theorem writeIn_epoch (i : Nat) (v : Byte) (s : State) : (writeIn i v s).epoch = s.epoch := rfl
@[simp] theorem writeIn_draws (i : Nat) (v : Byte) (s : State) : (writeIn i v s).draws = s.draws := rfl

/-! ### writeFreq -/

@[simp] theorem writeFreq_cfg (f : Table Word) (n : Word) (s : State) : (writeFreq f n s).cfg = s.cfg := rfl
@[simp] theorem writeFreq_phase (f : Table Word) (n : Word) (s : State) : (writeFreq f n s).phase = s.phase := rfl
@[simp] theorem writeFreq_tv (f : Table Word) (n : Word) (s : State) : (writeFreq f n s).tv = s.tv := rfl
@[simp] theorem writeFreq_sticky (f : Table Word) (n : Word) (s : State) : (writeFreq f n s).sticky = s.sticky := rfl
@[simp] theorem writeFreq_err (f : Table Word) (n : Word) (s : State) : (writeFreq f n s).err = s.err := rfl
@[simp] theorem writeFreq_errInfo (f : Table Word) (n : Word) (s : State) : (writeFreq f n s).errInfo = s.errInfo := rfl
@[simp] theorem writeFreq_inLen (f : Table Word) (n : Word) (s : State) : (writeFreq f n s).inLen = s.inLen := rfl
@[simp] theorem writeFreq_outLen (f : Table Word) (n : Word) (s : State) : (writeFreq f n s).outLen = s.outLen := rfl
@[simp] theorem writeFreq_nsym (f : Table Word) (n : Word) (s : State) : (writeFreq f n s).nsym = n := rfl
@[simp] theorem writeFreq_nodeCnt (f : Table Word) (n : Word) (s : State) : (writeFreq f n s).nodeCnt = s.nodeCnt := rfl
@[simp] theorem writeFreq_root (f : Table Word) (n : Word) (s : State) : (writeFreq f n s).root = s.root := rfl
@[simp] theorem writeFreq_bitLen (f : Table Word) (n : Word) (s : State) : (writeFreq f n s).bitLen = s.bitLen := rfl
@[simp] theorem writeFreq_pad (f : Table Word) (n : Word) (s : State) : (writeFreq f n s).pad = s.pad := rfl
@[simp] theorem writeFreq_freq (f : Table Word) (n : Word) (s : State) : (writeFreq f n s).freq = f := rfl
@[simp] theorem writeFreq_node (f : Table Word) (n : Word) (s : State) : (writeFreq f n s).node = s.node := rfl
@[simp] theorem writeFreq_code (f : Table Word) (n : Word) (s : State) : (writeFreq f n s).code = s.code := rfl
@[simp] theorem writeFreq_inBuf (f : Table Word) (n : Word) (s : State) : (writeFreq f n s).inBuf = s.inBuf := rfl
@[simp] theorem writeFreq_outBuf (f : Table Word) (n : Word) (s : State) : (writeFreq f n s).outBuf = s.outBuf := rfl
@[simp] theorem writeFreq_host (f : Table Word) (n : Word) (s : State) : (writeFreq f n s).host = s.host := rfl
@[simp] theorem writeFreq_resp (f : Table Word) (n : Word) (s : State) : (writeFreq f n s).resp = s.resp := rfl
@[simp] theorem writeFreq_hostRefused (f : Table Word) (n : Word) (s : State) : (writeFreq f n s).hostRefused = s.hostRefused := rfl
@[simp] theorem writeFreq_epoch (f : Table Word) (n : Word) (s : State) : (writeFreq f n s).epoch = s.epoch := rfl
@[simp] theorem writeFreq_draws (f : Table Word) (n : Word) (s : State) : (writeFreq f n s).draws = s.draws := rfl

/-! ### writeTree -/

@[simp] theorem writeTree_cfg (ns : List Node) (c r : Word) (s : State) : (writeTree ns c r s).cfg = s.cfg := rfl
@[simp] theorem writeTree_phase (ns : List Node) (c r : Word) (s : State) : (writeTree ns c r s).phase = s.phase := rfl
@[simp] theorem writeTree_tv (ns : List Node) (c r : Word) (s : State) : (writeTree ns c r s).tv = s.tv := rfl
@[simp] theorem writeTree_sticky (ns : List Node) (c r : Word) (s : State) : (writeTree ns c r s).sticky = s.sticky := rfl
@[simp] theorem writeTree_err (ns : List Node) (c r : Word) (s : State) : (writeTree ns c r s).err = s.err := rfl
@[simp] theorem writeTree_errInfo (ns : List Node) (c r : Word) (s : State) : (writeTree ns c r s).errInfo = s.errInfo := rfl
@[simp] theorem writeTree_inLen (ns : List Node) (c r : Word) (s : State) : (writeTree ns c r s).inLen = s.inLen := rfl
@[simp] theorem writeTree_outLen (ns : List Node) (c r : Word) (s : State) : (writeTree ns c r s).outLen = s.outLen := rfl
@[simp] theorem writeTree_nsym (ns : List Node) (c r : Word) (s : State) : (writeTree ns c r s).nsym = s.nsym := rfl
@[simp] theorem writeTree_nodeCnt (ns : List Node) (c r : Word) (s : State) : (writeTree ns c r s).nodeCnt = c := rfl
@[simp] theorem writeTree_root (ns : List Node) (c r : Word) (s : State) : (writeTree ns c r s).root = r := rfl
@[simp] theorem writeTree_bitLen (ns : List Node) (c r : Word) (s : State) : (writeTree ns c r s).bitLen = s.bitLen := rfl
@[simp] theorem writeTree_pad (ns : List Node) (c r : Word) (s : State) : (writeTree ns c r s).pad = s.pad := rfl
@[simp] theorem writeTree_freq (ns : List Node) (c r : Word) (s : State) : (writeTree ns c r s).freq = s.freq := rfl
@[simp] theorem writeTree_node (ns : List Node) (c r : Word) (s : State) : (writeTree ns c r s).node = ns := rfl
@[simp] theorem writeTree_code (ns : List Node) (c r : Word) (s : State) : (writeTree ns c r s).code = s.code := rfl
@[simp] theorem writeTree_inBuf (ns : List Node) (c r : Word) (s : State) : (writeTree ns c r s).inBuf = s.inBuf := rfl
@[simp] theorem writeTree_outBuf (ns : List Node) (c r : Word) (s : State) : (writeTree ns c r s).outBuf = s.outBuf := rfl
@[simp] theorem writeTree_host (ns : List Node) (c r : Word) (s : State) : (writeTree ns c r s).host = s.host := rfl
@[simp] theorem writeTree_resp (ns : List Node) (c r : Word) (s : State) : (writeTree ns c r s).resp = s.resp := rfl
@[simp] theorem writeTree_hostRefused (ns : List Node) (c r : Word) (s : State) : (writeTree ns c r s).hostRefused = s.hostRefused := rfl
@[simp] theorem writeTree_epoch (ns : List Node) (c r : Word) (s : State) : (writeTree ns c r s).epoch = s.epoch := rfl
@[simp] theorem writeTree_draws (ns : List Node) (c r : Word) (s : State) : (writeTree ns c r s).draws = s.draws := rfl

/-! ### writeCode -/

@[simp] theorem writeCode_cfg (t : Table (Option Bits)) (s : State) : (writeCode t s).cfg = s.cfg := rfl
@[simp] theorem writeCode_phase (t : Table (Option Bits)) (s : State) : (writeCode t s).phase = s.phase := rfl
@[simp] theorem writeCode_tv (t : Table (Option Bits)) (s : State) : (writeCode t s).tv = true := rfl
@[simp] theorem writeCode_sticky (t : Table (Option Bits)) (s : State) : (writeCode t s).sticky = s.sticky := rfl
@[simp] theorem writeCode_err (t : Table (Option Bits)) (s : State) : (writeCode t s).err = s.err := rfl
@[simp] theorem writeCode_errInfo (t : Table (Option Bits)) (s : State) : (writeCode t s).errInfo = s.errInfo := rfl
@[simp] theorem writeCode_inLen (t : Table (Option Bits)) (s : State) : (writeCode t s).inLen = s.inLen := rfl
@[simp] theorem writeCode_outLen (t : Table (Option Bits)) (s : State) : (writeCode t s).outLen = s.outLen := rfl
@[simp] theorem writeCode_nsym (t : Table (Option Bits)) (s : State) : (writeCode t s).nsym = s.nsym := rfl
@[simp] theorem writeCode_nodeCnt (t : Table (Option Bits)) (s : State) : (writeCode t s).nodeCnt = s.nodeCnt := rfl
@[simp] theorem writeCode_root (t : Table (Option Bits)) (s : State) : (writeCode t s).root = s.root := rfl
@[simp] theorem writeCode_bitLen (t : Table (Option Bits)) (s : State) : (writeCode t s).bitLen = s.bitLen := rfl
@[simp] theorem writeCode_pad (t : Table (Option Bits)) (s : State) : (writeCode t s).pad = s.pad := rfl
@[simp] theorem writeCode_freq (t : Table (Option Bits)) (s : State) : (writeCode t s).freq = s.freq := rfl
@[simp] theorem writeCode_node (t : Table (Option Bits)) (s : State) : (writeCode t s).node = s.node := rfl
@[simp] theorem writeCode_code (t : Table (Option Bits)) (s : State) : (writeCode t s).code = t := rfl
@[simp] theorem writeCode_inBuf (t : Table (Option Bits)) (s : State) : (writeCode t s).inBuf = s.inBuf := rfl
@[simp] theorem writeCode_outBuf (t : Table (Option Bits)) (s : State) : (writeCode t s).outBuf = s.outBuf := rfl
@[simp] theorem writeCode_host (t : Table (Option Bits)) (s : State) : (writeCode t s).host = s.host := rfl
@[simp] theorem writeCode_resp (t : Table (Option Bits)) (s : State) : (writeCode t s).resp = s.resp := rfl
@[simp] theorem writeCode_hostRefused (t : Table (Option Bits)) (s : State) : (writeCode t s).hostRefused = s.hostRefused := rfl
@[simp] theorem writeCode_epoch (t : Table (Option Bits)) (s : State) : (writeCode t s).epoch = s.epoch := rfl
@[simp] theorem writeCode_draws (t : Table (Option Bits)) (s : State) : (writeCode t s).draws = s.draws := rfl

/-! ### writeOut -/

@[simp] theorem writeOut_cfg (bs : List Byte) (n p : Word) (s : State) : (writeOut bs n p s).cfg = s.cfg := rfl
@[simp] theorem writeOut_phase (bs : List Byte) (n p : Word) (s : State) : (writeOut bs n p s).phase = s.phase := rfl
@[simp] theorem writeOut_tv (bs : List Byte) (n p : Word) (s : State) : (writeOut bs n p s).tv = s.tv := rfl
@[simp] theorem writeOut_sticky (bs : List Byte) (n p : Word) (s : State) : (writeOut bs n p s).sticky = s.sticky := rfl
@[simp] theorem writeOut_err (bs : List Byte) (n p : Word) (s : State) : (writeOut bs n p s).err = s.err := rfl
@[simp] theorem writeOut_errInfo (bs : List Byte) (n p : Word) (s : State) : (writeOut bs n p s).errInfo = s.errInfo := rfl
@[simp] theorem writeOut_inLen (bs : List Byte) (n p : Word) (s : State) : (writeOut bs n p s).inLen = s.inLen := rfl
@[simp] theorem writeOut_outLen (bs : List Byte) (n p : Word) (s : State) : (writeOut bs n p s).outLen = BitVec.ofNat 32 bs.length := rfl
@[simp] theorem writeOut_nsym (bs : List Byte) (n p : Word) (s : State) : (writeOut bs n p s).nsym = s.nsym := rfl
@[simp] theorem writeOut_nodeCnt (bs : List Byte) (n p : Word) (s : State) : (writeOut bs n p s).nodeCnt = s.nodeCnt := rfl
@[simp] theorem writeOut_root (bs : List Byte) (n p : Word) (s : State) : (writeOut bs n p s).root = s.root := rfl
@[simp] theorem writeOut_bitLen (bs : List Byte) (n p : Word) (s : State) : (writeOut bs n p s).bitLen = n := rfl
@[simp] theorem writeOut_pad (bs : List Byte) (n p : Word) (s : State) : (writeOut bs n p s).pad = p := rfl
@[simp] theorem writeOut_freq (bs : List Byte) (n p : Word) (s : State) : (writeOut bs n p s).freq = s.freq := rfl
@[simp] theorem writeOut_node (bs : List Byte) (n p : Word) (s : State) : (writeOut bs n p s).node = s.node := rfl
@[simp] theorem writeOut_code (bs : List Byte) (n p : Word) (s : State) : (writeOut bs n p s).code = s.code := rfl
@[simp] theorem writeOut_inBuf (bs : List Byte) (n p : Word) (s : State) : (writeOut bs n p s).inBuf = s.inBuf := rfl
@[simp] theorem writeOut_outBuf (bs : List Byte) (n p : Word) (s : State) : (writeOut bs n p s).outBuf = Memory.ofBytes bs := rfl
@[simp] theorem writeOut_host (bs : List Byte) (n p : Word) (s : State) : (writeOut bs n p s).host = s.host := rfl
@[simp] theorem writeOut_resp (bs : List Byte) (n p : Word) (s : State) : (writeOut bs n p s).resp = s.resp := rfl
@[simp] theorem writeOut_hostRefused (bs : List Byte) (n p : Word) (s : State) : (writeOut bs n p s).hostRefused = s.hostRefused := rfl
@[simp] theorem writeOut_epoch (bs : List Byte) (n p : Word) (s : State) : (writeOut bs n p s).epoch = s.epoch := rfl
@[simp] theorem writeOut_draws (bs : List Byte) (n p : Word) (s : State) : (writeOut bs n p s).draws = s.draws := rfl

/-! ### dropOut -/

@[simp] theorem dropOut_cfg (s : State) : (dropOut s).cfg = s.cfg := rfl
@[simp] theorem dropOut_phase (s : State) : (dropOut s).phase = s.phase := rfl
@[simp] theorem dropOut_tv (s : State) : (dropOut s).tv = s.tv := rfl
@[simp] theorem dropOut_sticky (s : State) : (dropOut s).sticky = s.sticky := rfl
@[simp] theorem dropOut_err (s : State) : (dropOut s).err = s.err := rfl
@[simp] theorem dropOut_errInfo (s : State) : (dropOut s).errInfo = s.errInfo := rfl
@[simp] theorem dropOut_inLen (s : State) : (dropOut s).inLen = s.inLen := rfl
@[simp] theorem dropOut_outLen (s : State) : (dropOut s).outLen = 0#32 := rfl
@[simp] theorem dropOut_nsym (s : State) : (dropOut s).nsym = s.nsym := rfl
@[simp] theorem dropOut_nodeCnt (s : State) : (dropOut s).nodeCnt = s.nodeCnt := rfl
@[simp] theorem dropOut_root (s : State) : (dropOut s).root = s.root := rfl
@[simp] theorem dropOut_bitLen (s : State) : (dropOut s).bitLen = s.bitLen := rfl
@[simp] theorem dropOut_pad (s : State) : (dropOut s).pad = s.pad := rfl
@[simp] theorem dropOut_freq (s : State) : (dropOut s).freq = s.freq := rfl
@[simp] theorem dropOut_node (s : State) : (dropOut s).node = s.node := rfl
@[simp] theorem dropOut_code (s : State) : (dropOut s).code = s.code := rfl
@[simp] theorem dropOut_inBuf (s : State) : (dropOut s).inBuf = s.inBuf := rfl
@[simp] theorem dropOut_outBuf (s : State) : (dropOut s).outBuf = [] := rfl
@[simp] theorem dropOut_host (s : State) : (dropOut s).host = s.host := rfl
@[simp] theorem dropOut_resp (s : State) : (dropOut s).resp = s.resp := rfl
@[simp] theorem dropOut_hostRefused (s : State) : (dropOut s).hostRefused = s.hostRefused := rfl
@[simp] theorem dropOut_epoch (s : State) : (dropOut s).epoch = s.epoch := rfl
@[simp] theorem dropOut_draws (s : State) : (dropOut s).draws = s.draws := rfl

/-! ### succeed -/

@[simp] theorem succeed_cfg (s : State) : (succeed s).cfg = s.cfg := rfl
@[simp] theorem succeed_phase (s : State) : (succeed s).phase = s.phase := rfl
@[simp] theorem succeed_tv (s : State) : (succeed s).tv = s.tv := rfl
@[simp] theorem succeed_sticky (s : State) : (succeed s).sticky = s.sticky := rfl
@[simp] theorem succeed_err (s : State) : (succeed s).err = .ok := rfl
@[simp] theorem succeed_errInfo (s : State) : (succeed s).errInfo = 0#32 := rfl
@[simp] theorem succeed_inLen (s : State) : (succeed s).inLen = s.inLen := rfl
@[simp] theorem succeed_outLen (s : State) : (succeed s).outLen = s.outLen := rfl
@[simp] theorem succeed_nsym (s : State) : (succeed s).nsym = s.nsym := rfl
@[simp] theorem succeed_nodeCnt (s : State) : (succeed s).nodeCnt = s.nodeCnt := rfl
@[simp] theorem succeed_root (s : State) : (succeed s).root = s.root := rfl
@[simp] theorem succeed_bitLen (s : State) : (succeed s).bitLen = s.bitLen := rfl
@[simp] theorem succeed_pad (s : State) : (succeed s).pad = s.pad := rfl
@[simp] theorem succeed_freq (s : State) : (succeed s).freq = s.freq := rfl
@[simp] theorem succeed_node (s : State) : (succeed s).node = s.node := rfl
@[simp] theorem succeed_code (s : State) : (succeed s).code = s.code := rfl
@[simp] theorem succeed_inBuf (s : State) : (succeed s).inBuf = s.inBuf := rfl
@[simp] theorem succeed_outBuf (s : State) : (succeed s).outBuf = s.outBuf := rfl
@[simp] theorem succeed_host (s : State) : (succeed s).host = s.host := rfl
@[simp] theorem succeed_resp (s : State) : (succeed s).resp = s.resp := rfl
@[simp] theorem succeed_hostRefused (s : State) : (succeed s).hostRefused = s.hostRefused := rfl
@[simp] theorem succeed_epoch (s : State) : (succeed s).epoch = s.epoch := rfl
@[simp] theorem succeed_draws (s : State) : (succeed s).draws = s.draws := rfl

/-! ### errorEntry -/

@[simp] theorem errorEntry_cfg (r : Raise) (s : State) : (errorEntry r s).cfg = s.cfg := rfl
@[simp] theorem errorEntry_phase (r : Raise) (s : State) : (errorEntry r s).phase = s.phase := rfl
@[simp] theorem errorEntry_tv (r : Raise) (s : State) : (errorEntry r s).tv = s.tv := rfl
@[simp] theorem errorEntry_sticky (r : Raise) (s : State) : (errorEntry r s).sticky = true := rfl
@[simp] theorem errorEntry_err (r : Raise) (s : State) : (errorEntry r s).err = r.code := rfl
@[simp] theorem errorEntry_errInfo (r : Raise) (s : State) : (errorEntry r s).errInfo = r.info := rfl
@[simp] theorem errorEntry_inLen (r : Raise) (s : State) : (errorEntry r s).inLen = s.inLen := rfl
@[simp] theorem errorEntry_outLen (r : Raise) (s : State) : (errorEntry r s).outLen = s.outLen := rfl
@[simp] theorem errorEntry_nsym (r : Raise) (s : State) : (errorEntry r s).nsym = s.nsym := rfl
@[simp] theorem errorEntry_nodeCnt (r : Raise) (s : State) : (errorEntry r s).nodeCnt = s.nodeCnt := rfl
@[simp] theorem errorEntry_root (r : Raise) (s : State) : (errorEntry r s).root = s.root := rfl
@[simp] theorem errorEntry_bitLen (r : Raise) (s : State) : (errorEntry r s).bitLen = s.bitLen := rfl
@[simp] theorem errorEntry_pad (r : Raise) (s : State) : (errorEntry r s).pad = s.pad := rfl
@[simp] theorem errorEntry_freq (r : Raise) (s : State) : (errorEntry r s).freq = s.freq := rfl
@[simp] theorem errorEntry_node (r : Raise) (s : State) : (errorEntry r s).node = s.node := rfl
@[simp] theorem errorEntry_code (r : Raise) (s : State) : (errorEntry r s).code = s.code := rfl
@[simp] theorem errorEntry_inBuf (r : Raise) (s : State) : (errorEntry r s).inBuf = s.inBuf := rfl
@[simp] theorem errorEntry_outBuf (r : Raise) (s : State) : (errorEntry r s).outBuf = s.outBuf := rfl
@[simp] theorem errorEntry_host (r : Raise) (s : State) : (errorEntry r s).host = s.host := rfl
@[simp] theorem errorEntry_resp (r : Raise) (s : State) : (errorEntry r s).resp = s.resp := rfl
@[simp] theorem errorEntry_hostRefused (r : Raise) (s : State) : (errorEntry r s).hostRefused = s.hostRefused := rfl
@[simp] theorem errorEntry_epoch (r : Raise) (s : State) : (errorEntry r s).epoch = s.epoch := rfl
@[simp] theorem errorEntry_draws (r : Raise) (s : State) : (errorEntry r s).draws = s.draws := rfl

/-! ### errorEntryOut -/

@[simp] theorem errorEntryOut_cfg (r : Raise) (s : State) : (errorEntryOut r s).cfg = s.cfg := rfl
@[simp] theorem errorEntryOut_phase (r : Raise) (s : State) : (errorEntryOut r s).phase = s.phase := rfl
@[simp] theorem errorEntryOut_tv (r : Raise) (s : State) : (errorEntryOut r s).tv = s.tv := rfl
@[simp] theorem errorEntryOut_sticky (r : Raise) (s : State) : (errorEntryOut r s).sticky = true := rfl
@[simp] theorem errorEntryOut_err (r : Raise) (s : State) : (errorEntryOut r s).err = r.code := rfl
@[simp] theorem errorEntryOut_errInfo (r : Raise) (s : State) : (errorEntryOut r s).errInfo = r.info := rfl
@[simp] theorem errorEntryOut_inLen (r : Raise) (s : State) : (errorEntryOut r s).inLen = s.inLen := rfl
@[simp] theorem errorEntryOut_outLen (r : Raise) (s : State) : (errorEntryOut r s).outLen = 0#32 := rfl
@[simp] theorem errorEntryOut_nsym (r : Raise) (s : State) : (errorEntryOut r s).nsym = s.nsym := rfl
@[simp] theorem errorEntryOut_nodeCnt (r : Raise) (s : State) : (errorEntryOut r s).nodeCnt = s.nodeCnt := rfl
@[simp] theorem errorEntryOut_root (r : Raise) (s : State) : (errorEntryOut r s).root = s.root := rfl
@[simp] theorem errorEntryOut_bitLen (r : Raise) (s : State) : (errorEntryOut r s).bitLen = s.bitLen := rfl
@[simp] theorem errorEntryOut_pad (r : Raise) (s : State) : (errorEntryOut r s).pad = s.pad := rfl
@[simp] theorem errorEntryOut_freq (r : Raise) (s : State) : (errorEntryOut r s).freq = s.freq := rfl
@[simp] theorem errorEntryOut_node (r : Raise) (s : State) : (errorEntryOut r s).node = s.node := rfl
@[simp] theorem errorEntryOut_code (r : Raise) (s : State) : (errorEntryOut r s).code = s.code := rfl
@[simp] theorem errorEntryOut_inBuf (r : Raise) (s : State) : (errorEntryOut r s).inBuf = s.inBuf := rfl
@[simp] theorem errorEntryOut_outBuf (r : Raise) (s : State) : (errorEntryOut r s).outBuf = [] := rfl
@[simp] theorem errorEntryOut_host (r : Raise) (s : State) : (errorEntryOut r s).host = s.host := rfl
@[simp] theorem errorEntryOut_resp (r : Raise) (s : State) : (errorEntryOut r s).resp = s.resp := rfl
@[simp] theorem errorEntryOut_hostRefused (r : Raise) (s : State) : (errorEntryOut r s).hostRefused = s.hostRefused := rfl
@[simp] theorem errorEntryOut_epoch (r : Raise) (s : State) : (errorEntryOut r s).epoch = s.epoch := rfl
@[simp] theorem errorEntryOut_draws (r : Raise) (s : State) : (errorEntryOut r s).draws = s.draws := rfl

/-! ### clearBlock -/

@[simp] theorem clearBlock_cfg (s : State) : (clearBlock s).cfg = s.cfg := rfl
@[simp] theorem clearBlock_phase (s : State) : (clearBlock s).phase = .idle := rfl
@[simp] theorem clearBlock_tv (s : State) : (clearBlock s).tv = false := rfl
@[simp] theorem clearBlock_sticky (s : State) : (clearBlock s).sticky = false := rfl
@[simp] theorem clearBlock_err (s : State) : (clearBlock s).err = .ok := rfl
@[simp] theorem clearBlock_errInfo (s : State) : (clearBlock s).errInfo = 0#32 := rfl
@[simp] theorem clearBlock_inLen (s : State) : (clearBlock s).inLen = s.inLen := rfl
@[simp] theorem clearBlock_outLen (s : State) : (clearBlock s).outLen = 0#32 := rfl
@[simp] theorem clearBlock_nsym (s : State) : (clearBlock s).nsym = 0#32 := rfl
@[simp] theorem clearBlock_nodeCnt (s : State) : (clearBlock s).nodeCnt = 0#32 := rfl
@[simp] theorem clearBlock_root (s : State) : (clearBlock s).root = 0#32 := rfl
@[simp] theorem clearBlock_bitLen (s : State) : (clearBlock s).bitLen = 0#32 := rfl
@[simp] theorem clearBlock_pad (s : State) : (clearBlock s).pad = 0#32 := rfl
@[simp] theorem clearBlock_freq (s : State) : (clearBlock s).freq = Vector.replicate 256 0#32 := rfl
@[simp] theorem clearBlock_node (s : State) : (clearBlock s).node = [] := rfl
@[simp] theorem clearBlock_code (s : State) : (clearBlock s).code = Vector.replicate 256 none := rfl
@[simp] theorem clearBlock_inBuf (s : State) : (clearBlock s).inBuf = s.inBuf := rfl
@[simp] theorem clearBlock_outBuf (s : State) : (clearBlock s).outBuf = [] := rfl
@[simp] theorem clearBlock_host (s : State) : (clearBlock s).host = s.host := rfl
@[simp] theorem clearBlock_resp (s : State) : (clearBlock s).resp = s.resp := rfl
@[simp] theorem clearBlock_hostRefused (s : State) : (clearBlock s).hostRefused = s.hostRefused := rfl
@[simp] theorem clearBlock_epoch (s : State) : (clearBlock s).epoch = s.epoch := rfl
@[simp] theorem clearBlock_draws (s : State) : (clearBlock s).draws = s.draws := rfl

/-! ### resetBlock -/

@[simp] theorem resetBlock_cfg (s : State) : (resetBlock s).cfg = s.cfg := rfl
@[simp] theorem resetBlock_phase (s : State) : (resetBlock s).phase = .idle := rfl
@[simp] theorem resetBlock_tv (s : State) : (resetBlock s).tv = false := rfl
@[simp] theorem resetBlock_sticky (s : State) : (resetBlock s).sticky = false := rfl
@[simp] theorem resetBlock_err (s : State) : (resetBlock s).err = .ok := rfl
@[simp] theorem resetBlock_errInfo (s : State) : (resetBlock s).errInfo = 0#32 := rfl
@[simp] theorem resetBlock_inLen (s : State) : (resetBlock s).inLen = 0#32 := rfl
@[simp] theorem resetBlock_outLen (s : State) : (resetBlock s).outLen = 0#32 := rfl
@[simp] theorem resetBlock_nsym (s : State) : (resetBlock s).nsym = 0#32 := rfl
@[simp] theorem resetBlock_nodeCnt (s : State) : (resetBlock s).nodeCnt = 0#32 := rfl
@[simp] theorem resetBlock_root (s : State) : (resetBlock s).root = 0#32 := rfl
@[simp] theorem resetBlock_bitLen (s : State) : (resetBlock s).bitLen = 0#32 := rfl
@[simp] theorem resetBlock_pad (s : State) : (resetBlock s).pad = 0#32 := rfl
@[simp] theorem resetBlock_freq (s : State) : (resetBlock s).freq = Vector.replicate 256 0#32 := rfl
@[simp] theorem resetBlock_node (s : State) : (resetBlock s).node = [] := rfl
@[simp] theorem resetBlock_code (s : State) : (resetBlock s).code = Vector.replicate 256 none := rfl
@[simp] theorem resetBlock_inBuf (s : State) : (resetBlock s).inBuf = [] := rfl
@[simp] theorem resetBlock_outBuf (s : State) : (resetBlock s).outBuf = [] := rfl
@[simp] theorem resetBlock_host (s : State) : (resetBlock s).host = s.host := rfl
@[simp] theorem resetBlock_resp (s : State) : (resetBlock s).resp = .none := rfl
@[simp] theorem resetBlock_hostRefused (s : State) : (resetBlock s).hostRefused = s.hostRefused := rfl
@[simp] theorem resetBlock_epoch (s : State) : (resetBlock s).epoch = s.epoch + 1 := rfl
@[simp] theorem resetBlock_draws (s : State) : (resetBlock s).draws = s.draws := rfl

/-! ### respond -/

@[simp] theorem respond_cfg (r : BusResponse) (s : State) : (respond r s).cfg = s.cfg := rfl
@[simp] theorem respond_phase (r : BusResponse) (s : State) : (respond r s).phase = s.phase := rfl
@[simp] theorem respond_tv (r : BusResponse) (s : State) : (respond r s).tv = s.tv := rfl
@[simp] theorem respond_sticky (r : BusResponse) (s : State) : (respond r s).sticky = s.sticky := rfl
@[simp] theorem respond_err (r : BusResponse) (s : State) : (respond r s).err = s.err := rfl
@[simp] theorem respond_errInfo (r : BusResponse) (s : State) : (respond r s).errInfo = s.errInfo := rfl
@[simp] theorem respond_inLen (r : BusResponse) (s : State) : (respond r s).inLen = s.inLen := rfl
@[simp] theorem respond_outLen (r : BusResponse) (s : State) : (respond r s).outLen = s.outLen := rfl
@[simp] theorem respond_nsym (r : BusResponse) (s : State) : (respond r s).nsym = s.nsym := rfl
@[simp] theorem respond_nodeCnt (r : BusResponse) (s : State) : (respond r s).nodeCnt = s.nodeCnt := rfl
@[simp] theorem respond_root (r : BusResponse) (s : State) : (respond r s).root = s.root := rfl
@[simp] theorem respond_bitLen (r : BusResponse) (s : State) : (respond r s).bitLen = s.bitLen := rfl
@[simp] theorem respond_pad (r : BusResponse) (s : State) : (respond r s).pad = s.pad := rfl
@[simp] theorem respond_freq (r : BusResponse) (s : State) : (respond r s).freq = s.freq := rfl
@[simp] theorem respond_node (r : BusResponse) (s : State) : (respond r s).node = s.node := rfl
@[simp] theorem respond_code (r : BusResponse) (s : State) : (respond r s).code = s.code := rfl
@[simp] theorem respond_inBuf (r : BusResponse) (s : State) : (respond r s).inBuf = s.inBuf := rfl
@[simp] theorem respond_outBuf (r : BusResponse) (s : State) : (respond r s).outBuf = s.outBuf := rfl
@[simp] theorem respond_host (r : BusResponse) (s : State) : (respond r s).host = s.host := rfl
@[simp] theorem respond_resp (r : BusResponse) (s : State) : (respond r s).resp = r := rfl
@[simp] theorem respond_hostRefused (r : BusResponse) (s : State) : (respond r s).hostRefused = s.hostRefused := rfl
@[simp] theorem respond_epoch (r : BusResponse) (s : State) : (respond r s).epoch = s.epoch := rfl
@[simp] theorem respond_draws (r : BusResponse) (s : State) : (respond r s).draws = s.draws := rfl

/-! ### refuse -/

@[simp] theorem refuse_cfg (s : State) : (refuse s).cfg = s.cfg := rfl
@[simp] theorem refuse_phase (s : State) : (refuse s).phase = s.phase := rfl
@[simp] theorem refuse_tv (s : State) : (refuse s).tv = s.tv := rfl
@[simp] theorem refuse_sticky (s : State) : (refuse s).sticky = s.sticky := rfl
@[simp] theorem refuse_err (s : State) : (refuse s).err = s.err := rfl
@[simp] theorem refuse_errInfo (s : State) : (refuse s).errInfo = s.errInfo := rfl
@[simp] theorem refuse_inLen (s : State) : (refuse s).inLen = s.inLen := rfl
@[simp] theorem refuse_outLen (s : State) : (refuse s).outLen = s.outLen := rfl
@[simp] theorem refuse_nsym (s : State) : (refuse s).nsym = s.nsym := rfl
@[simp] theorem refuse_nodeCnt (s : State) : (refuse s).nodeCnt = s.nodeCnt := rfl
@[simp] theorem refuse_root (s : State) : (refuse s).root = s.root := rfl
@[simp] theorem refuse_bitLen (s : State) : (refuse s).bitLen = s.bitLen := rfl
@[simp] theorem refuse_pad (s : State) : (refuse s).pad = s.pad := rfl
@[simp] theorem refuse_freq (s : State) : (refuse s).freq = s.freq := rfl
@[simp] theorem refuse_node (s : State) : (refuse s).node = s.node := rfl
@[simp] theorem refuse_code (s : State) : (refuse s).code = s.code := rfl
@[simp] theorem refuse_inBuf (s : State) : (refuse s).inBuf = s.inBuf := rfl
@[simp] theorem refuse_outBuf (s : State) : (refuse s).outBuf = s.outBuf := rfl
@[simp] theorem refuse_host (s : State) : (refuse s).host = s.host := rfl
@[simp] theorem refuse_resp (s : State) : (refuse s).resp = .error := rfl
@[simp] theorem refuse_hostRefused (s : State) : (refuse s).hostRefused = true := rfl
@[simp] theorem refuse_epoch (s : State) : (refuse s).epoch = s.epoch := rfl
@[simp] theorem refuse_draws (s : State) : (refuse s).draws = s.draws := rfl

/-! ### popHost -/

@[simp] theorem popHost_cfg (rest : List HostEvent) (s : State) : (popHost rest s).cfg = s.cfg := rfl
@[simp] theorem popHost_phase (rest : List HostEvent) (s : State) : (popHost rest s).phase = s.phase := rfl
@[simp] theorem popHost_tv (rest : List HostEvent) (s : State) : (popHost rest s).tv = s.tv := rfl
@[simp] theorem popHost_sticky (rest : List HostEvent) (s : State) : (popHost rest s).sticky = s.sticky := rfl
@[simp] theorem popHost_err (rest : List HostEvent) (s : State) : (popHost rest s).err = s.err := rfl
@[simp] theorem popHost_errInfo (rest : List HostEvent) (s : State) : (popHost rest s).errInfo = s.errInfo := rfl
@[simp] theorem popHost_inLen (rest : List HostEvent) (s : State) : (popHost rest s).inLen = s.inLen := rfl
@[simp] theorem popHost_outLen (rest : List HostEvent) (s : State) : (popHost rest s).outLen = s.outLen := rfl
@[simp] theorem popHost_nsym (rest : List HostEvent) (s : State) : (popHost rest s).nsym = s.nsym := rfl
@[simp] theorem popHost_nodeCnt (rest : List HostEvent) (s : State) : (popHost rest s).nodeCnt = s.nodeCnt := rfl
@[simp] theorem popHost_root (rest : List HostEvent) (s : State) : (popHost rest s).root = s.root := rfl
@[simp] theorem popHost_bitLen (rest : List HostEvent) (s : State) : (popHost rest s).bitLen = s.bitLen := rfl
@[simp] theorem popHost_pad (rest : List HostEvent) (s : State) : (popHost rest s).pad = s.pad := rfl
@[simp] theorem popHost_freq (rest : List HostEvent) (s : State) : (popHost rest s).freq = s.freq := rfl
@[simp] theorem popHost_node (rest : List HostEvent) (s : State) : (popHost rest s).node = s.node := rfl
@[simp] theorem popHost_code (rest : List HostEvent) (s : State) : (popHost rest s).code = s.code := rfl
@[simp] theorem popHost_inBuf (rest : List HostEvent) (s : State) : (popHost rest s).inBuf = s.inBuf := rfl
@[simp] theorem popHost_outBuf (rest : List HostEvent) (s : State) : (popHost rest s).outBuf = s.outBuf := rfl
@[simp] theorem popHost_host (rest : List HostEvent) (s : State) : (popHost rest s).host = rest := rfl
@[simp] theorem popHost_resp (rest : List HostEvent) (s : State) : (popHost rest s).resp = s.resp := rfl
@[simp] theorem popHost_hostRefused (rest : List HostEvent) (s : State) : (popHost rest s).hostRefused = s.hostRefused := rfl
@[simp] theorem popHost_epoch (rest : List HostEvent) (s : State) : (popHost rest s).epoch = s.epoch := rfl
@[simp] theorem popHost_draws (rest : List HostEvent) (s : State) : (popHost rest s).draws = s.draws := rfl

end Sys2Proof.Machine
end

