-- ==== Sys2Proof/Laws/Memory.lean ====
section
/-! SUPPORT. Byte buffers: read after write, other bytes unchanged, and every operation keeps the form. -/

namespace Sys2Proof.Machine

open Sys2Proof

namespace Memory

@[simp] theorem lookup_write_same (m : Memory) (a : Nat) (v : Byte) :
    Memory.lookup (Memory.write m a v) a = some v := by
  induction m with
  | nil => simp [Memory.write, Memory.lookup]
  | cons c m ih =>
    obtain ⟨b, w⟩ := c
    simp only [Memory.write]
    split
    · simp [Memory.lookup]
    · split
      · simp [Memory.lookup]
      · rename_i h1 h2
        simp [Memory.lookup, h2, ih]

theorem lookup_write_other (m : Memory) {a b : Nat} (v : Byte) (h : b ≠ a) :
    Memory.lookup (Memory.write m a v) b = Memory.lookup m b := by
  induction m with
  | nil => simp [Memory.write, Memory.lookup, h]
  | cons c m ih =>
    obtain ⟨x, w⟩ := c
    simp only [Memory.write]
    split
    · simp [Memory.lookup, h]
    · split
      · rename_i h1 h2
        subst h2
        simp [Memory.lookup, h]
      · simp [Memory.lookup, ih]

/-- The indices listed after a write: the written one and those listed before. -/
theorem mem_keys_write (m : Memory) (a : Nat) (v : Byte) (k : Nat) :
    k ∈ (Memory.write m a v).map Prod.fst ↔ k = a ∨ k ∈ m.map Prod.fst := by
  induction m with
  | nil => simp [Memory.write]
  | cons c m ih =>
    obtain ⟨x, w⟩ := c
    simp only [Memory.write]
    split
    · simp
    · split
      · rename_i h1 h2
        subst h2
        simp
      · simp only [List.map_cons, List.mem_cons, ih]
        tauto

/-- A write keeps the canonical form. -/
theorem write_wf {m : Memory} (h : Memory.wf m) (a : Nat) (v : Byte) : Memory.wf (Memory.write m a v) := by
  induction m with
  | nil => exact List.pairwise_singleton _ _
  | cons c m ih =>
    obtain ⟨x, w⟩ := c
    have hc : (∀ k ∈ m.map Prod.fst, x < k) ∧ (m.map Prod.fst).Pairwise (· < ·) := List.pairwise_cons.1 h
    simp only [Memory.write]
    split
    · rename_i hlt
      simp only [Memory.wf, List.map_cons, List.pairwise_cons, List.mem_cons]
      refine ⟨?_, hc⟩
      rintro k (rfl | hk)
      · exact hlt
      · exact hlt.trans (hc.1 k hk)
    · split
      · rename_i hge heq
        subst heq
        exact List.pairwise_cons.2 hc
      · rename_i hge hne
        simp only [Memory.wf, List.map_cons, List.pairwise_cons]
        refine ⟨?_, ih hc.2⟩
        intro k hk
        rcases (mem_keys_write m a v k).1 hk with rfl | hk'
        · omega
        · exact hc.1 k hk'

theorem empty_wf : Memory.wf [] := List.Pairwise.nil

/-- The indices a byte sequence is listed at. -/
theorem keys_ofBytesFrom (i : Nat) (bs : List Byte) :
    (Memory.ofBytesFrom i bs).map Prod.fst = List.range' i bs.length := by
  induction bs generalizing i with
  | nil => rfl
  | cons b bs ih => simp [Memory.ofBytesFrom, ih, List.range'_succ]

theorem keys_ofBytes (bs : List Byte) : (Memory.ofBytes bs).map Prod.fst = List.range bs.length := by
  rw [Memory.ofBytes, keys_ofBytesFrom, List.range_eq_range']

/-- The buffer of a byte sequence has the canonical form. -/
theorem ofBytes_wf (bs : List Byte) : Memory.wf (Memory.ofBytes bs) := by
  rw [Memory.wf, keys_ofBytes]
  exact List.pairwise_lt_range

theorem lookup_ofBytesFrom (i : Nat) (bs : List Byte) (k : Nat) :
    Memory.lookup (Memory.ofBytesFrom i bs) k = if k < i then none else bs[k - i]? := by
  induction bs generalizing i with
  | nil => simp [Memory.ofBytesFrom, Memory.lookup]
  | cons b bs ih =>
    simp only [Memory.ofBytesFrom, Memory.lookup, ih]
    by_cases h : k = i
    · subst h; simp
    · by_cases hlt : k < i
      · have : k < i + 1 := by omega
        simp [h, hlt, this]
      · have h1 : ¬ k < i + 1 := by omega
        have h2 : k - i = (k - (i + 1)) + 1 := by omega
        simp [h, hlt, h1, h2]

/-- The buffer of a byte sequence lists byte `k` of it at index `k`. -/
@[simp] theorem lookup_ofBytes (bs : List Byte) (k : Nat) :
    Memory.lookup (Memory.ofBytes bs) k = bs[k]? := by
  simp [Memory.ofBytes, lookup_ofBytesFrom]

end Memory

/-- The buffers of the reset state have the canonical form. -/
theorem reset_buffers_wf (c : Config) :
    Memory.wf (State.resetWith c).inBuf ∧ Memory.wf (State.resetWith c).outBuf :=
  ⟨Memory.empty_wf, Memory.empty_wf⟩

end Sys2Proof.Machine
end

