-- ==== Sys2Proof/Laws/Operands.lean ====
section
/-! SUPPORT. The implicit operands: the input bytes and the result bytes of a state. -/

namespace Sys2Proof.Machine

open Sys2Proof

@[simp] theorem inputBytes_length (s : State) : (inputBytes s).length = s.inLen.toNat := by
  simp [inputBytes]

theorem inputBytes_getElem? (s : State) {i : Nat} (h : i < s.inLen.toNat) :
    (inputBytes s)[i]? = some (inByte s i) := by
  simp [inputBytes, h]

/-- IN depends on IN_LEN, the buffer and the reset count only. -/
theorem inputBytes_congr {s t : State} (h1 : t.inLen = s.inLen) (h2 : t.inBuf = s.inBuf)
    (h3 : t.epoch = s.epoch) : inputBytes t = inputBytes s := by
  simp only [inputBytes, h1]
  refine List.map_congr_left fun i _ => ?_
  simp [inByte, h2, h3]

/-- Lowering IN_LEN takes a prefix of the input. -/
theorem inputBytes_take {s t : State} (h1 : t.inLen.toNat ≤ s.inLen.toNat) (h2 : t.inBuf = s.inBuf)
    (h3 : t.epoch = s.epoch) : inputBytes t = (inputBytes s).take t.inLen.toNat := by
  apply List.ext_getElem?
  intro i
  rw [List.getElem?_take]
  by_cases hi : i < t.inLen.toNat
  · rw [if_pos hi, inputBytes_getElem? t hi, inputBytes_getElem? s (by omega)]
    simp [inByte, h2, h3]
  · rw [if_neg hi, List.getElem?_eq_none (by simpa using hi)]

theorem inByte_writeIn_same (s : State) (i : Nat) (v : Byte) : inByte (writeIn i v s) i = v := by
  simp [inByte]

theorem inByte_writeIn_other (s : State) {i j : Nat} (v : Byte) (h : j ≠ i) :
    inByte (writeIn i v s) j = inByte s j := by
  simp [inByte, Memory.lookup_write_other _ v h]

/-- The state whose input is a given byte sequence: IN lists it from index 0 and IN_LEN is its length. -/
theorem inputBytes_of_load {s : State} {bs : List Byte} (h1 : s.inBuf = Memory.ofBytes bs)
    (h2 : s.inLen.toNat = bs.length) : inputBytes s = bs := by
  apply List.ext_getElem?
  intro i
  by_cases hi : i < s.inLen.toNat
  · rw [inputBytes_getElem? s hi]
    have hb : i < bs.length := by omega
    simp [inByte, h1, hb]
  · rw [List.getElem?_eq_none (by simpa using hi), List.getElem?_eq_none (by omega)]

theorem filterMap_range_getElem? {α : Type} (bs : List α) :
    (List.range bs.length).filterMap (fun i => bs[i]?) = bs := by
  induction bs with
  | nil => rfl
  | cons b bs ih =>
    rw [List.length_cons, List.range_succ_eq_map]
    simp [List.filterMap_map, ih]

/-- The result bytes of a state whose OUT lists a byte sequence and whose OUT_LEN is its length. -/
theorem outputBytes_of_buf {s : State} {bs : List Byte} (h1 : s.outBuf = Memory.ofBytes bs)
    (h2 : s.outLen.toNat = bs.length) : outputBytes s = bs := by
  rw [outputBytes, h2]
  conv_rhs => rw [← filterMap_range_getElem? bs]
  refine List.filterMap_congr fun i hi => ?_
  simp only [List.mem_range] at hi
  simp [outByte, h1, h2, hi]

/-- After a result is written, OUT reads as that result. -/
theorem outputBytes_writeOut (s : State) {bs : List Byte} (n p : Word) (h : bs.length < 2 ^ 32) :
    outputBytes (writeOut bs n p s) = bs :=
  outputBytes_of_buf rfl (by simpa using h)

/-- After OUT is given up, no byte of it is specified. -/
theorem outByte_dropOut (s : State) (i : Nat) : outByte (dropOut s) i = none := by
  simp [outByte]

end Sys2Proof.Machine
end

