-- ==== Sys2Proof/Laws/Tables.lean ====
section
/-! SUPPORT. Tables of 256 entries: reading a tabulated table, and when two tables are equal. -/

namespace Sys2Proof.Machine

open Sys2Proof

theorem allSymbols_length : allSymbols.length = 256 := by simp [allSymbols]

@[simp] theorem mem_allSymbols (s : Byte) : s ∈ allSymbols := by
  simp only [allSymbols, List.mem_map, List.mem_range]
  exact ⟨s.toNat, s.isLt, by simp⟩

theorem allSymbols_nodup : allSymbols.Nodup := by
  refine List.Nodup.map_on ?_ List.nodup_range
  intro x hx y hy h
  have := congrArg BitVec.toNat h
  simp only [List.mem_range] at hx hy
  simpa [Nat.mod_eq_of_lt hx, Nat.mod_eq_of_lt hy] using this

/-- The symbols stand in ascending value. -/
theorem allSymbols_ascending : allSymbols.Pairwise (fun a b => a.toNat < b.toNat) := by
  rw [allSymbols, List.pairwise_map]
  refine (List.pairwise_lt_range (n := 256)).imp_of_mem ?_
  intro a b ha hb hab
  simp only [List.mem_range] at ha hb
  simpa [Nat.mod_eq_of_lt ha, Nat.mod_eq_of_lt hb] using hab

@[simp] theorem entry_tabulate {α : Type} (f : Byte → α) (s : Byte) : entry (tabulate f) s = f s := by
  simp [entry, tabulate, allSymbols]

@[simp] theorem entry_replicate {α : Type} (a : α) (s : Byte) : entry (Vector.replicate 256 a) s = a := by
  simp [entry]

/-- Two tables are equal when all their entries are. -/
theorem table_ext {α : Type} {t u : Table α} (h : ∀ s, entry t s = entry u s) : t = u := by
  apply Vector.ext
  intro k hk
  have hs : (BitVec.ofNat 8 k).toNat = k := by simp; omega
  simpa [entry, hs] using h (BitVec.ofNat 8 k)

/-- A table is the tabulation of its entries. -/
theorem tabulate_entry {α : Type} (t : Table α) : tabulate (entry t) = t :=
  table_ext fun s => entry_tabulate _ s

/-- A table as a list: its entries in ascending symbol value. -/
theorem toList_eq_map_entry {α : Type} (t : Table α) : t.toList = allSymbols.map (entry t) := by
  conv_lhs => rw [← tabulate_entry t]
  rfl

theorem toList_tabulate {α : Type} (f : Byte → α) : (tabulate f).toList = allSymbols.map f := rfl

/-- The rows of a table: each symbol with its entry. -/
theorem rows_eq_map {α : Type} (t : Table α) : rows t = allSymbols.map fun s => (s, entry t s) := by
  rw [rows, toList_eq_map_entry, List.zip_eq_zipWith, List.zipWith_map_right, List.zipWith_self]

@[simp] theorem mem_rows {α : Type} (t : Table α) (p : Byte × α) : p ∈ rows t ↔ entry t p.1 = p.2 := by
  simp only [rows_eq_map, List.mem_map, mem_allSymbols, true_and]
  constructor
  · rintro ⟨s, rfl⟩
    rfl
  · intro h
    exact ⟨p.1, by rw [h]⟩

/-- The leaves of a frequency table, by entry. -/
theorem leaves_eq (f : Table Word) :
    leaves f = allSymbols.filterMap fun s => if entry f s = 0#32 then none else some (.leaf s (entry f s)) := by
  rw [leaves, rows_eq_map, List.filterMap_map]
  rfl

/-- `rev`, by entry. -/
theorem rev_eq (t : Table (Option Bits)) (c : Bits) :
    rev t c = allSymbols.find? fun s => entry t s == some c := by
  rw [rev, rows_eq_map, List.find?_map, Option.map_map]
  exact Option.map_id'

/-- The valid entries of a code table, by entry. -/
theorem validCodes_eq (t : Table (Option Bits)) :
    validCodes t = allSymbols.filterMap fun s => (entry t s).map fun c => (s, c) := by
  rw [validCodes, rows_eq_map, List.filterMap_map]
  rfl

end Sys2Proof.Machine
end

