-- ==== Sys2Proof/Laws/Exec.lean ====
section
/-! SUPPORT. One lemma per command that says everything it can do, and one for a step. -/

namespace Sys2Proof.Machine

open Sys2Proof

/-- How an OUT-writing command ends: with its result, or with the error entry that gives up OUT. -/
theorem finishOut_cases (r : Except Raise Produced) (p : Phase) (s : State) :
    (∃ o, r = .ok o ∧ finishOut r p s =
      succeed (setPhase p (writeOut o.bytes (BitVec.ofNat 32 o.bitLen) (BitVec.ofNat 32 o.pad) s))) ∨
    (∃ e, r = .error e ∧ finishOut r p s = errorEntryOut e s) := by
  cases r with
  | ok o => exact .inl ⟨o, rfl, rfl⟩
  | error e => exact .inr ⟨e, rfl, rfl⟩

theorem exec_trim (s : State) : exec .trim s = .next (succeed (trimStage s)) := rfl

theorem exec_analyze (s : State) : exec .analyze s = .next (succeed (analyzeStage s)) := rfl

theorem exec_build_legal {s : State} (h : s.phase = .analyzed) :
    exec .build s = .next (succeed (buildStage s)) := if_pos h

theorem exec_build_illegal {s : State} (h : s.phase ≠ .analyzed) :
    exec .build s = .next (errorEntry (sequenceRaise s) s) := if_neg h

theorem exec_derive_legal {s : State} (h : s.phase = .treeBuilt) :
    exec .derive s = .next (succeed (deriveStage s)) := if_pos h

theorem exec_derive_illegal {s : State} (h : s.phase ≠ .treeBuilt) :
    exec .derive s = .next (errorEntry (sequenceRaise s) s) := if_neg h

theorem exec_pack_legal {s : State} (h : s.phase = .tableReady) :
    exec .pack s = .next (finishOut (packProduce s) .packed s) := if_pos h

theorem exec_pack_illegal {s : State} (h : s.phase ≠ .tableReady) :
    exec .pack s = .next (errorEntryOut (sequenceRaise s) s) := if_neg h

theorem exec_compress (s : State) :
    exec .compress s = .next (finishOut (packProduce (compressStages s)) .packed (compressStages s)) := rfl

theorem exec_decompress_legal {s : State} (h : s.tv = true) :
    exec .decompress s = .next (finishOut (unpackProduce s) .unpacked s) := if_pos h

theorem exec_decompress_illegal {s : State} (h : s.tv ≠ true) :
    exec .decompress s = .next (errorEntryOut ⟨.noTable, 0#32⟩ s) := if_neg h

theorem exec_clear (s : State) : exec .clear s = .next (clearBlock s) := rfl

/-- Everything a command can do: one of these next states, never a fault or a refusal. -/
theorem exec_cases {i : Instr} {s : State} {o : Host.Outcome State Fault Refusal} (h : exec i s = o) :
    (i = .trim ∧ o = .next (succeed (trimStage s))) ∨
    (i = .analyze ∧ o = .next (succeed (analyzeStage s))) ∨
    (i = .build ∧ s.phase = .analyzed ∧ o = .next (succeed (buildStage s))) ∨
    (i = .build ∧ s.phase ≠ .analyzed ∧ o = .next (errorEntry (sequenceRaise s) s)) ∨
    (i = .derive ∧ s.phase = .treeBuilt ∧ o = .next (succeed (deriveStage s))) ∨
    (i = .derive ∧ s.phase ≠ .treeBuilt ∧ o = .next (errorEntry (sequenceRaise s) s)) ∨
    (i = .pack ∧ s.phase = .tableReady ∧ o = .next (finishOut (packProduce s) .packed s)) ∨
    (i = .pack ∧ s.phase ≠ .tableReady ∧ o = .next (errorEntryOut (sequenceRaise s) s)) ∨
    (i = .compress ∧ o = .next (finishOut (packProduce (compressStages s)) .packed (compressStages s))) ∨
    (i = .decompress ∧ s.tv = true ∧ o = .next (finishOut (unpackProduce s) .unpacked s)) ∨
    (i = .decompress ∧ s.tv ≠ true ∧ o = .next (errorEntryOut ⟨.noTable, 0#32⟩ s)) ∨
    (i = .clear ∧ o = .next (clearBlock s)) := by
  subst h
  cases i with
  | trim => simp [exec_trim]
  | analyze => simp [exec_analyze]
  | build =>
    by_cases hp : s.phase = .analyzed
    · simp [exec_build_legal hp, hp]
    · simp [exec_build_illegal hp, hp]
  | derive =>
    by_cases hp : s.phase = .treeBuilt
    · simp [exec_derive_legal hp, hp]
    · simp [exec_derive_illegal hp, hp]
  | pack =>
    by_cases hp : s.phase = .tableReady
    · simp [exec_pack_legal hp, hp]
    · simp [exec_pack_illegal hp, hp]
  | compress => simp [exec_compress]
  | decompress =>
    by_cases hp : s.tv = true
    · simp [exec_decompress_legal hp, hp]
    · simp [exec_decompress_illegal hp, hp]
  | clear => simp [exec_clear]

/-- Every command goes on. -/
theorem exec_next (i : Instr) (s : State) : ∃ t, exec i s = .next t := by
  obtain ⟨-, h⟩ | ⟨-, h⟩ | ⟨-, -, h⟩ | ⟨-, -, h⟩ | ⟨-, -, h⟩ | ⟨-, -, h⟩ | ⟨-, -, h⟩ | ⟨-, -, h⟩ | ⟨-, h⟩ | ⟨-, -, h⟩ |
    ⟨-, -, h⟩ | ⟨-, h⟩ := exec_cases (i := i) (s := s) rfl
  all_goals exact ⟨_, h⟩

/-- Everything a step can do: wait, run a legal command, report an illegal one, or serve another event. -/
theorem step_cases {s : State} {o : Host.Outcome State Fault Refusal} (h : step s = o) :
    (s.host = [] ∧ o = .next s) ∨
    (∃ w rest i, s.host = cmdw w :: rest ∧ decode w = some i ∧ o = exec i (respond .done (popHost rest s))) ∨
    (∃ w rest, s.host = cmdw w :: rest ∧ decode w = none ∧
      o = .next (illegalCommand w (respond .done (popHost rest s)))) ∨
    (∃ e rest, s.host = e :: rest ∧ commandWordOf e = none ∧ o = .next (serveEvent e (popHost rest s))) := by
  subst h
  unfold step
  split
  · rename_i hh
    exact .inl ⟨hh, rfl⟩
  · rename_i e rest hh
    split
    · rename_i w hw
      have he : e = cmdw w := by
        cases e with
        | read off wd => simp [commandWordOf] at hw
        | reset => simp [commandWordOf] at hw
        | write off d =>
          cases d with
          | byte v => simp [commandWordOf] at hw
          | half v => simp [commandWordOf] at hw
          | word v =>
            simp only [commandWordOf, Option.ite_none_right_eq_some, Option.some.injEq] at hw
            obtain ⟨rfl, rfl⟩ := hw
            rfl
      unfold runCommand
      cases hd : decode w with
      | some i => exact .inr (.inl ⟨w, rest, i, by rw [hh, he], hd, rfl⟩)
      | none => exact .inr (.inr (.inl ⟨w, rest, by rw [hh, he], hd, rfl⟩))
    · rename_i hw
      exact .inr (.inr (.inr ⟨e, rest, hh, hw, rfl⟩))

/-- Everything serving a read can do: answer with data, count one more unspecified byte, or refuse. -/
theorem serveRead_cases (off : Nat) (w : Width) (s : State) :
    (∃ d, serveRead off w s = respond (.data d) s) ∨
    (∃ v, serveRead off w s = respond (.data (.byte v)) { s with draws := s.draws + 1 }) ∨
    serveRead off w s = refuse s := by
  cases w with
  | word =>
    simp only [serveRead]
    split
    · exact .inl ⟨_, rfl⟩
    · exact .inr (.inr rfl)
  | half => exact .inr (.inr rfl)
  | byte =>
    simp only [serveRead]
    split
    · exact .inl ⟨_, rfl⟩
    · split
      · rename_i i _
        unfold readOut
        cases outByte s i with
        | some v => exact .inl ⟨_, rfl⟩
        | none => exact .inr (.inl ⟨_, rfl⟩)
      · exact .inr (.inr rfl)

/-- Everything serving a write can do: store IN_LEN within IN_CAP, store a byte of IN, or refuse. -/
theorem serveWrite_cases (off : Nat) (d : BusData) (s : State) :
    (∃ v, d = .word v ∧ off = inLenOffset ∧ v.toNat ≤ s.cfg.inCap ∧
      serveWrite off d s = respond .done (setInLen v s)) ∨
    (∃ i v, d = .byte v ∧ inIndex s.cfg off = some i ∧ serveWrite off d s = respond .done (writeIn i v s)) ∨
    serveWrite off d s = refuse s := by
  cases d with
  | word v =>
    simp only [serveWrite]
    split
    · rename_i h
      exact .inl ⟨v, rfl, h.1, h.2, rfl⟩
    · exact .inr (.inr rfl)
  | half v => exact .inr (.inr rfl)
  | byte v =>
    simp only [serveWrite]
    split
    · rename_i i h
      exact .inr (.inl ⟨i, v, rfl, h, rfl⟩)
    · exact .inr (.inr rfl)

/-- An index in IN is below IN_CAP. -/
theorem inIndex_lt {c : Config} {off i : Nat} (h : inIndex c off = some i) :
    i < c.inCap ∧ off = inBase + i := by
  simp only [inIndex, Option.ite_none_right_eq_some, Option.some.injEq] at h
  omega

end Sys2Proof.Machine
end

