-- ==== Sys2Proof/Laws/PerInstr.lean ====
section
/-! SUPPORT. Facts made once per command: its word is a legal command word that names it. -/

namespace Sys2Proof.Laws.LegalWord

open Sys2Proof

/-- The word of a command is well formed, has a zero ZERO field, and decodes to the command. -/
def Statement (i : Instr) : Prop :=
  i.wf = true ∧ commandWordWf (encode i) = true ∧ zeroField (encode i) = 0#24 ∧ decode (encode i) = some i

theorem trim : Statement .trim := by unfold Statement; decide
theorem analyze : Statement .analyze := by unfold Statement; decide
theorem build : Statement .build := by unfold Statement; decide
theorem derive : Statement .derive := by unfold Statement; decide
theorem pack : Statement .pack := by unfold Statement; decide
theorem compress : Statement .compress := by unfold Statement; decide
theorem decompress : Statement .decompress := by unfold Statement; decide
theorem clear : Statement .clear := by unfold Statement; decide

end Sys2Proof.Laws.LegalWord
end

