-- ==== Sys2Proof/Tests/Slice0.lean ====
section
/-! SUPPORT. The model's own tests: well-formedness, words written out from 30_encoding.md R91, one or two steps of each
command against 95_test_vectors.md, and for each statement a state that meets its hypotheses. -/

namespace Sys2Proof.Tests

open Sys2Proof Sys2Proof.Machine

/-! ### Well-formedness: each check refuses an ill-formed term -/

theorem test_wf_every_command : ∀ i ∈ [Instr.trim, .analyze, .build, .derive, .pack, .compress, .decompress, .clear],
    i.wf = true := by decide

theorem test_wf_standard_config : Config.standard.wf = true := by decide
theorem test_wf_refuses_in_cap_zero : Config.wf { Config.standard with inCap := 0 } = false := by decide
theorem test_wf_refuses_in_cap_above : Config.wf { Config.standard with inCap := 2 ^ 24 + 1 } = false := by decide
theorem test_wf_refuses_out_cap_one : Config.wf { Config.standard with outCap := 1 } = false := by decide
theorem test_wf_refuses_out_cap_above : Config.wf { Config.standard with outCap := 2 ^ 27 + 1 } = false := by decide
theorem test_wf_accepts_bounds : Config.wf { Config.standard with inCap := 2 ^ 24, outCap := 2 } = true := by decide

/-- A legal opcode with a non-zero ZERO field is ill formed (30_encoding.md R93). -/
theorem test_wf_refuses_zero_field : commandWordWf 0x00000110#32 = false := by decide
/-- A reserved opcode is ill formed (30_encoding.md R93). -/
theorem test_wf_refuses_reserved_opcode : commandWordWf 0x00000006#32 = false := by decide

/-! ### Decoding: words written out bit by bit from 30_encoding.md R90, R91 -/

theorem test_decode_trim : decode 0b00000000000000000000000000000001#32 = some .trim := by decide
theorem test_decode_analyze : decode 0b00000000000000000000000000000010#32 = some .analyze := by decide
theorem test_decode_build : decode 0b00000000000000000000000000000011#32 = some .build := by decide
theorem test_decode_derive : decode 0b00000000000000000000000000000100#32 = some .derive := by decide
theorem test_decode_pack : decode 0b00000000000000000000000000000101#32 = some .pack := by decide
theorem test_decode_compress : decode 0b00000000000000000000000000010000#32 = some .compress := by decide
theorem test_decode_decompress : decode 0b00000000000000000000000000010001#32 = some .decompress := by decide
theorem test_decode_clear : decode 0b00000000000000000000000000100000#32 = some .clear := by decide

/-- The illegal words of 95_test_vectors.md 2.1. -/
theorem test_decode_illegal : ([0x00000000#32, 0x00000006#32, 0x0000000F#32, 0x00000012#32, 0x0000001F#32,
    0x00000021#32, 0x000000FF#32, 0x00000110#32, 0x80000002#32, 0x00010020#32, 0xFFFFFFFF#32] : List Word).all
    (fun w => decode w == none) = true := by decide +kernel

theorem test_decodeTableWord : decodeTableWord 32 0x11 = some .decompress ∧ decodeTableWord 32 0x110 = none ∧
    decodeTableWord 8 0x03 = some .build ∧ decodeTableWord 40 (2 ^ 32 + 3) = none := by decide +kernel

/-! ### Small states -/

/-- A small block: 16 bytes of IN, 8 of OUT, the default padding and whitespace. -/
def small : Config := { Config.standard with inCap := 16, outCap := 8 }

/-- `s` with the bytes `bs` as the input in IN. -/
def feed (bs : List Byte) (s : State) : State :=
  { s with inBuf := Memory.ofBytes bs, inLen := BitVec.ofNat 32 bs.length }

/-- A block after reset whose input is `bs`. -/
def loaded (c : Config) (bs : List Byte) : State := feed bs (State.resetWith c)

/-- `s` with one pending host event. -/
def offer (e : HostEvent) (s : State) : State := { s with host := [e] }

/-- The state an outcome goes on with; `s` where it stops. -/
def after (o : Host.Outcome State Fault Refusal) (s : State) : State :=
  match o with
  | .next t => t
  | .fault _ => s
  | .refused _ => s

/-- The state after a command. -/
def ran (i : Instr) (s : State) : State := after (exec i s) s

/-- Every command goes on, so `ran` is the state after it. -/
theorem exec_ran (i : Instr) (s : State) : exec i s = .next (ran i s) := by
  obtain ⟨t, h⟩ := exec_next i s
  simp [ran, after, h]

/-- The state after one step. -/
def stepped (s : State) : State := after (step s) s

/-- The frequency table with the given counts. -/
def counts (ps : List (Byte × Word)) : Table Word := tabulate fun s => (ps.lookup s).getD 0#32

/-- "aaabbc" and "aab". -/
def aaabbc : List Byte := [0x61#8, 0x61#8, 0x61#8, 0x62#8, 0x62#8, 0x63#8]
def aab : List Byte := [0x61#8, 0x61#8, 0x62#8]

/-- The tree of "aaabbc" (95_test_vectors.md 2.4). -/
def tree3 : List Node := [.leaf 0x61#8 3#32, .leaf 0x62#8 2#32, .leaf 0x63#8 1#32, .internal 3#32 2 1, .internal 6#32 0 3]

/-- Its codes (95_test_vectors.md 2.5), and the table of one symbol. -/
def codes3 : Table (Option Bits) := codeTableOf [(0x61#8, [false]), (0x63#8, [true, false]), (0x62#8, [true, true])]
def codes1 : Table (Option Bits) := codeTableOf [(0x61#8, [false])]

/-- The block with input "aaabbc" in phase Analyzed, in TreeBuilt and in TableReady, as 2.3 to 2.5 list its tables. -/
def sAnalyzed : State :=
  { loaded small aaabbc with phase := .analyzed, freq := counts [(0x61#8, 3#32), (0x62#8, 2#32), (0x63#8, 1#32)], nsym := 3#32 }
def sBuilt : State := { sAnalyzed with phase := .treeBuilt, node := tree3, nodeCnt := 5#32, root := 4#32 }
def sReady : State := { sBuilt with phase := .tableReady, tv := true, code := codes3 }

/-- A block that holds the table of one symbol, with an input. -/
def single (bs : List Byte) : State := { loaded small bs with phase := .tableReady, tv := true, code := codes1 }

/-! ### Each command against 95_test_vectors.md -/

/-- 2.2, rows 1 and 4: "ab \n" is trimmed to 2 bytes, " ab" keeps its leading space. -/
theorem test_trim : (ran .trim (loaded small [0x61#8, 0x62#8, 0x20#8, 0x0A#8])).inLen = 2#32 ∧
    (ran .trim (loaded small [0x20#8, 0x61#8, 0x62#8])).inLen = 3#32 := by decide +kernel

/-- 2.2, row 6: every member of WS is trimmed. -/
theorem test_trim_all_whitespace :
    (ran .trim (loaded small [0x09#8, 0x0A#8, 0x0B#8, 0x0C#8, 0x0D#8, 0x20#8])).inLen = 0#32 := by decide +kernel

/-- 2.3: FREQ and NSYM of "aab" as in 2.4. -/
theorem test_analyze : entry (ran .analyze (loaded small aab)).freq 0x61#8 = 2#32 ∧
    entry (ran .analyze (loaded small aab)).freq 0x62#8 = 1#32 ∧
    entry (ran .analyze (loaded small aab)).freq 0x63#8 = 0#32 ∧
    (ran .analyze (loaded small aab)).nsym = 2#32 := by decide +kernel

/-- 2.3, row 2: empty input still moves the phase. -/
theorem test_analyze_empty : (ran .analyze sBuilt).phase = .analyzed ∧
    (ran .analyze (loaded small [])).nsym = 0#32 := by decide +kernel

/-- 2.4, vector aaabbc: a tie won by the smaller index, the first pop on the left. -/
theorem test_build : (ran .build sAnalyzed).node = tree3 ∧ (ran .build sAnalyzed).nodeCnt = 5#32 ∧
    (ran .build sAnalyzed).root = 4#32 := by decide +kernel

/-- 2.9: a second BUILD. -/
theorem test_build_sequence : (ran .build sBuilt).err = .sequence ∧ (ran .build sBuilt).errInfo = 2#32 ∧
    (ran .build sBuilt).node = tree3 := by decide +kernel

/-- 2.5, vector aaabbc. -/
theorem test_derive : validCodes (ran .derive sBuilt).code =
      [(0x61#8, [false]), (0x62#8, [true, true]), (0x63#8, [true, false])] ∧
    statusWord (ran .derive sBuilt) = 0x13#32 := by decide +kernel

/-- 2.5: the single leaf gets the code "0". -/
theorem test_derive_single :
    validCodes (ran .derive { sBuilt with node := [.leaf 0x61#8 6#32], nodeCnt := 1#32, root := 0#32 }).code =
      [(0x61#8, [false])] := by decide +kernel

/-- 2.6, row 1. -/
theorem test_pack : outputBytes (ran .pack sReady) = [0x07#8, 0x1F#8, 0x00#8] ∧
    (ran .pack sReady).bitLen = 9#32 ∧ (ran .pack sReady).pad = 7#32 := by decide +kernel

/-- 2.9: MissingCode at the least index. -/
theorem test_pack_missing : (ran .pack (feed [0x61#8, 0x62#8, 0x64#8, 0x65#8] sReady)).err = .missingCode ∧
    (ran .pack (feed [0x61#8, 0x62#8, 0x64#8, 0x65#8] sReady)).errInfo = 2#32 := by decide +kernel

/-- 2.8: "ab \n". -/
theorem test_compress :
    outputBytes (ran .compress (loaded small [0x61#8, 0x62#8, 0x20#8, 0x0A#8])) = [0x06#8, 0x40#8] := by decide +kernel

/-- 2.8 with PAD8 true: "aaaaaaaa" gets a whole zero byte of padding, which overflows an OUT of 2 bytes. -/
theorem test_compress_pad8 :
    (ran .compress (loaded { small with pad8 := true, outCap := 2 } (List.replicate 8 0x61#8))).err = .overflow ∧
    extra true 8 = 8 := by decide +kernel

/-- 2.7, row 2: removed bits are not checked. -/
theorem test_decompress : outputBytes (ran .decompress (feed [0x07#8, 0x1F#8, 0x7F#8] sReady)) = aaabbc ∧
    statusWord (ran .decompress (feed [0x07#8, 0x1F#8, 0x7F#8] sReady)) = 0x15#32 := by decide +kernel

/-- 2.7: no header byte, header too great, bits left over. -/
theorem test_decompress_format : (ran .decompress (feed [] sReady)).errInfo = 2#32 ∧
    (ran .decompress (feed [0x09#8, 0x00#8] sReady)).errInfo = 3#32 ∧
    (ran .decompress (feed [0x10#8, 0x1F#8, 0x00#8, 0xFF#8] sReady)).errInfo = 1#32 := by decide +kernel

/-- 2.8, CLEAR: STATUS 0 and IN_LEN kept. -/
theorem test_clear : statusWord (ran .clear sReady) = 0#32 ∧ (ran .clear sReady).inLen = 6#32 ∧
    validCodes (ran .clear sReady).code = [] := by decide +kernel

/-- 2.9, an illegal word leaves OUT_LEN alone. -/
theorem test_illegal : (stepped (offer (cmdw 0x110#32) { sReady with outLen := 3#32 })).err = .illegalCommand ∧
    (stepped (offer (cmdw 0x110#32) { sReady with outLen := 3#32 })).errInfo = 0x110#32 ∧
    (stepped (offer (cmdw 0x110#32) { sReady with outLen := 3#32 })).outLen = 3#32 := by decide +kernel

/-- 2.10, accesses that are refused. -/
theorem test_refused : ∀ e ∈ [HostEvent.read 0x06 .word, .read 0x04 .byte, .read 0x04 .half, .read 0x01000000 .word,
    .read 0x38 .word, .read 0x0800 .word, .read 0x8000 .word, .read (0x01000000 + 16) .byte,
    .write 0x14 (.word 0#32), .write 0x0400 (.word 0#32), .write 0x08000000 (.byte 0#8), .write 0x10 (.word 17#32)],
    (stepped (offer e (State.resetWith small))).resp = .error := by decide +kernel

/-- 2.4 and 2.5, the host view of NODE entry 3 word 2 and of the code of "b". -/
theorem test_windows : readWord sReady (0x2000 + 16 * 3 + 8) = some 0x00010002#32 ∧
    readWord sReady 0x5880 = some 0x80000002#32 ∧ readWord sReady 0x5884 = some 0xC0000000#32 := by decide +kernel

/-- 2.5, the layout of a 33-bit and a 40-bit code. -/
theorem test_long_codes : codeWord (some (List.replicate 32 false ++ [true])) 0 = 0x80000021#32 ∧
    codeWord (some (List.replicate 32 false ++ [true])) 2 = 0x80000000#32 ∧
    codeWord (some (List.replicate 40 true)) 1 = 0xFFFFFFFF#32 ∧
    codeWord (some (List.replicate 40 true)) 2 = 0xFF000000#32 := by decide +kernel

/-- The padding counts of 95_test_vectors.md X5. -/
theorem test_extra : [0, 1, 7, 8, 9, 15, 16].map (extra false) = [0, 7, 1, 0, 7, 1, 0] ∧
    [0, 1, 7, 8, 9, 15, 16].map (extra true) = [0, 7, 1, 8, 7, 1, 8] := by decide +kernel

/-- The step that withFetchWord prepares runs the command: COMPRESS of the empty input right after reset. -/
theorem test_withFetchWord : (stepped (State.reset.withFetchWord 32 0x10)).phase = .packed ∧
    outputBytes (stepped (State.reset.withFetchWord 32 0x10)) = [0x00#8] ∧
    (stepped (State.reset.withFetchWord 32 0x11)).err = .noTable := by decide +kernel

/-- `ld IN, "ab"`, step by step (95_test_vectors.md P1, first statement). -/
theorem test_load_script : stepsTo 3 { State.resetWith small with host := ldIn [0x61#8, 0x62#8] }
    { loaded small [0x61#8, 0x62#8] with resp := .done } := by rfl

/-! ### States that meet the hypotheses of the statements, clause by clause -/

theorem witness_inv : Inv (offer (cmd .pack) sReady) := by decide +kernel
theorem witness_nodes : NodesOk sBuilt := by decide +kernel

theorem witness_tree : TreeOk tree3 ∧ 2 ≤ leafCount tree3 ∧ TreeOk [.leaf 0x61#8 6#32] ∧ TreeOk [] := by decide +kernel

theorem witness_codes : CodesOk codes3 ∧ (∀ x ∈ aaabbc, entry codes3 x ≠ none) := by decide +kernel

/-- StagesAgree in the phases it says something about: shown at the state BUILD leaves. -/
theorem witness_stages : StagesAgree sBuilt ∧ sBuilt.phase = .treeBuilt := by decide +kernel

/-- StepRunsTheDecodedCommand and IllegalWordRaisesIllegalCommand. -/
theorem witness_step : (offer (cmd .trim) sReady).host = .write 0x00 (.word 1#32) :: [] ∧ decode 1#32 = some .trim ∧
    (offer (cmdw 0x12#32) sReady).host = .write 0x00 (.word 0x12#32) :: [] ∧
    0x12#32 ∉ [0x01#32, 0x02#32, 0x03#32, 0x04#32, 0x05#32, 0x10#32, 0x11#32, 0x20#32] ∧ sReady.host = [] := by
  decide +kernel

/-- ResetGivesTheListedValues and ResetMeetsTheInvariant. -/
theorem witness_reset : (offer .reset sReady).host = .reset :: [] ∧ small.wf = true := by decide +kernel

/-- RefusedAccessChangesNothing: a read for each of (a) to (d), at the edges of the ranges. -/
theorem witness_refused_read : small.wf = true ∧ RefusedPlace small 0x38 .word ∧ RefusedPlace small 0x3FF .byte ∧
    RefusedPlace small 0x02 .word ∧ RefusedPlace small 0x37 .half ∧
    RefusedPlace small 0x0100000F .word ∧ RefusedPlace small 0x01000010 .byte ∧
    RefusedPlace small 0x08000008 .byte := by
  refine ⟨by decide, by decide, by decide, by decide, by decide, by decide, by decide, by decide⟩

/-- RefusedAccessChangesNothing: a write for (e) and (f). -/
theorem witness_refused_write : RefusedReadOnly small 0x04 ∧ RefusedReadOnly small 0x34 ∧ RefusedReadOnly small 0x7FFC ∧
    RefusedReadOnly small 0x08000007 ∧ RefusedInLen small 0x10 (.word 17#32) := by
  refine ⟨by decide, by decide, by decide, by decide, rfl, 17#32, rfl, by decide⟩

/-- AcceptedAccessIsAnswered: a read and a write at the ends of their ranges. -/
theorem witness_accepted : ¬ RefusedAccess small (.read 0x0100000F .byte) ∧ ¬ RefusedAccess small (.read 0x7FFC .word) ∧
    ¬ RefusedAccess small (.write 0x10 (.word 16#32)) := by
  refine ⟨by unfold RefusedAccess; decide, by unfold RefusedAccess; decide, ?_⟩
  rintro (h | h | ⟨-, v, hv, hlt⟩)
  · exact absurd h (by decide)
  · exact absurd h (by decide)
  · cases hv; exact absurd hlt (by decide)

/-- The window statements: an entry of each kind, a short and a long code, the last byte of IN. -/
theorem witness_windows : (3 < sReady.nodeCnt.toNat ∧ sReady.node[3]? = some (.internal 3#32 2 1)) ∧
    (0 < sReady.nodeCnt.toNat ∧ sReady.node[0]? = some (.leaf 0x61#8 3#32)) ∧ sReady.nodeCnt.toNat ≤ 511 ∧
    entry sReady.code 0x62#8 = some [true, true] ∧ entry sReady.code 0x00#8 = none ∧
    15 < sReady.cfg.inCap ∧ 7 < sReady.cfg.outCap ∧ sReady.cfg.wf = true := by decide +kernel

/-- NodeWindowHasTheTabledLayout: an entry below a NODE_CNT that counts more than NODE lists, which no run reaches. -/
theorem witness_node_absent : 5 < ({ sReady with nodeCnt := 6#32 } : State).nodeCnt.toNat ∧ sReady.node[5]? = none := by
  decide +kernel

/-- OutWindowReadsTheResultBytes: a specified byte and, at OUT_LEN, an unspecified one. -/
theorem witness_out : outByte (ran .pack sReady) 2 = some 0x00#8 ∧ outByte (ran .pack sReady) 3 = none := by
  decide +kernel

/-- PlainAccessesHaveNoSideEffect: a byte write to the last byte of IN and one past it, a word write that stores nothing
because it is one above IN_CAP, and IN_LEN written with IN_CAP itself. -/
theorem witness_plain : (offer (wrInLen 16) sReady).host = .write 0x10 (.word 16#32) :: [] ∧
    (16#32).toNat ≤ sReady.cfg.inCap ∧ ¬ (17#32).toNat ≤ sReady.cfg.inCap ∧ (BusData.byte 0#8).width ≠ .word ∧
    (BusData.word 17#32).width ≠ .byte ∧ 0x10 ≠ 0x00 ∧ inIndex sReady.cfg 0x0100000F = some 15 ∧
    inIndex sReady.cfg 0x01000010 = none := by decide +kernel
theorem witness_plain_inLen : (stepped (offer (wrInLen 16) sReady)).inLen ≠ sReady.inLen ∧
    (stepped (offer (wrInLen 17) sReady)).inLen = sReady.inLen := by decide +kernel
/-- PlainAccessesHaveNoSideEffect: a read that counts a draw, and one of a specified byte that does not. -/
theorem witness_plain_draw : (stepped (offer (rdbOut 3) (ran .pack sReady))).draws ≠ sReady.draws ∧
    outIndex sReady.cfg 0x08000003 = some 3 ∧ (stepped (offer (rdbOut 2) (ran .pack sReady))).draws = sReady.draws := by
  decide +kernel

/-- The completion statements of BUILD, DERIVE and PACK, and StagedCommandsRequireTheirPhase. -/
theorem witness_staged : sAnalyzed.phase = .analyzed ∧ (NodesOk sBuilt ∧ sBuilt.phase = .treeBuilt) ∧
    (sReady.phase = .tableReady ∧ (∀ b ∈ inputBytes sReady, entry sReady.code b ≠ none) ∧
      artifactLength false (encodedLength sReady.code (inputBytes sReady)) ≤ sReady.cfg.outCap) ∧
    sReady.phase ≠ .analyzed ∧ sReady.phase ≠ .treeBuilt ∧ sBuilt.phase ≠ .tableReady := by decide +kernel

/-- The table statements: a table of three symbols, of one and of none. -/
theorem witness_freq : freqTotal sAnalyzed.freq < 2 ^ 32 ∧ 1 ≤ symbolCount sAnalyzed.freq ∧
    entry (counts [(0x61#8, 6#32)]) 0x61#8 ≠ 0#32 := by decide +kernel
theorem witness_freq_one (x : Byte) (h : x ≠ 0x61#8) : entry (counts [(0x61#8, 6#32)]) x = 0#32 := by
  have hb : (x == 0x61#8) = false := by simpa using h
  simp [counts, List.lookup, hb]
theorem witness_freq_none (x : Byte) : entry (counts []) x = 0#32 := by simp [counts]

/-- PopTakesTheLeastKey: a queue of three indices. -/
theorem witness_pop : [0, 1, 2].Nodup ∧ popMin tree3 [0, 1, 2] = some (2, [0, 1]) := by decide +kernel

/-- DerivedCodesArePrefixFree: a DERIVE and a COMPRESS that go on; two symbols with codes. -/
theorem witness_derived : exec .derive sBuilt = .next (ran .derive sBuilt) ∧
    exec .compress sBuilt = .next (ran .compress sBuilt) := ⟨exec_ran _ _, exec_ran _ _⟩
theorem witness_two_codes : entry (ran .derive sBuilt).code 0x61#8 = some [false] ∧
    entry (ran .derive sBuilt).code 0x63#8 = some [true, false] := by decide +kernel

/-- EncodedLengthIsTheSumOfCodeLengths and the statements about `encode`. -/
theorem witness_encode : encodeBits codes3 aab = .ok [false, false, true, true] ∧ encodeBits codes3 [] = .ok [] := ⟨rfl, rfl⟩

/-- The last clause of EncodedLengthIsTheSumOfCodeLengths: the table of the input itself. -/
theorem witness_own_table : entry (tableOfFreq (analyze aab)) 0x61#8 = some [true] ∧
    entry (tableOfFreq (analyze aab)) 0x62#8 = some [false] := by decide +kernel

/-- PackReportsTheLeastMissingIndex, at index 0 and at a later one. -/
theorem witness_missing : (inputBytes (feed [0x64#8] sReady))[0]? = some 0x64#8 ∧ entry sReady.code 0x64#8 = none ∧
    (inputBytes (feed [0x61#8, 0x64#8] sReady))[1]? = some 0x64#8 ∧ entry sReady.code 0x61#8 ≠ none := by decide +kernel

/-- OversizedResultsOverflow: PACK and DECOMPRESS into an OUT of 2 bytes. -/
theorem witness_overflow :
    2 < artifactLength false (encodedLength codes3 (inputBytes sReady)) ∧
    unpadBits (fromBytes [0x05#8, 0x00#8]) = .ok ([false, false, false], 5) ∧
    decodeBits codes1 [false, false, false] = .ok [0x61#8, 0x61#8, 0x61#8] := by
  refine ⟨by decide +kernel, rfl, ?_⟩
  decide +kernel

/-- OversizedResultsOverflow: COMPRESS of "aab" under PAD8 with eight times the input would not fit either; here the
length of the artifact of eight equal bytes. -/
theorem witness_overflow_compress : 2 < artifactLength true 8 ∧
    encodedLength (tableOfFreq (analyze (List.replicate 8 0x61#8))) (List.replicate 8 0x61#8) = 8 := by decide +kernel

/-- The bit-string statements: lengths that are and are not a multiple of 8, the empty one. -/
theorem witness_bits : (List.replicate 16 true).length % 8 = 0 ∧ (List.replicate 9 true).length % 8 ≠ 0 ∧
    ([] : Bits).length % 8 = 0 ∧ (List.replicate 7 true).length < 8 ∧
    (List.replicate 8 true).length < (0x09#8).toNat ∧ ([] : Bits).length = (0x00#8).toNat := by decide +kernel

/-- DecodeFailsExactlyInsideACode: bits that end inside a code, a 1 bit against the one-symbol table, any bit against the
empty table. -/
theorem witness_partial : [true] <+: [true, false] ∧ [true] ≠ [true, false] ∧
    entry (treeTable tree3) 0x63#8 = some [true, false] ∧ entry codes1 0x61#8 = some [false] := by decide +kernel
theorem witness_one_code (x : Byte) (h : x ≠ 0x61#8) : entry codes1 x = none := by
  have hb : (x == 0x61#8) = false := by simpa using h
  simp [codes1, codeTableOf, List.lookup, hb]
theorem witness_no_code (x : Byte) : entry (codeTableOf []) x = none := by simp [codeTableOf]

/-- DecompressWritesTheSymbols, with a header and the greatest header that fits. -/
theorem witness_decompress : inputBytes (feed [0x07#8, 0x1F#8, 0x00#8] sReady) = 0x07#8 :: [0x1F#8, 0x00#8] ∧
    (0x07#8).toNat ≤ 8 * [0x1F#8, 0x00#8].length ∧ (0x08#8).toNat ≤ 8 * [0x1F#8].length ∧ sReady.tv = true := by
  decide +kernel
theorem witness_decompress_bits : decodeBits codes3 ((fromBytes [0x1F#8, 0x00#8]).take (8 * 2 - 7)) = .ok aaabbc ∧
    decodeBits codes3 ((fromBytes [0x1F#8]).take (8 * 1 - 8)) = .ok [] := by decide +kernel

/-- DecompressWithoutATableRaisesNoTable and DecompressReportsFormatErrorsInOrder. -/
theorem witness_decompress_errors : (loaded small [0x00#8]).tv = false ∧ inputBytes (feed [] sReady) = [] ∧
    8 * [0x00#8].length < (0x09#8).toNat := by decide +kernel
theorem witness_unmatched : decodeBits codes3 ((fromBytes [0x1F#8]).take (8 * 1 - 0)) = .error ⟨.format, 1#32⟩ := by
  decide +kernel

/-- CompressPacksTheTrimmedInput and DecompressUndoesCompress: the input "ab " fits, and its artifact decompresses. -/
theorem witness_compress :
    artifactLength false (encodedLength (tableOfFreq (analyze aab)) aab) ≤ small.outCap ∧
    trim small.ws (inputBytes (loaded small (aab ++ [0x20#8]))) = aab ∧
    aab.length ≤ small.inCap ∧ aab.length ≤ small.outCap := by decide +kernel
theorem witness_round_trip : (ran .compress (loaded small aab)).err = .ok ∧
    (outputBytes (ran .compress (loaded small aab))).length ≤ small.inCap ∧
    inputBytes (feed [0x05#8, 0xC0#8] (ran .compress (loaded small aab))) =
      outputBytes (ran .compress (loaded small aab)) := by decide +kernel

/-- EmptyInputRoundTrips and OneRepeatedSymbolRoundTrips. -/
theorem witness_degenerate : trim small.ws (inputBytes (loaded small [0x20#8, 0x0A#8])) = [] ∧
    inputBytes (loaded small [0x61#8, 0x61#8]) = List.replicate 2 0x61#8 ∧ 0x61#8 ∉ small.ws ∧
    artifactLength small.pad8 2 ≤ small.outCap := by decide +kernel

/-- CompressDependsOnTheInputAlone: two states with the same input and different tables. -/
theorem witness_same_input : sReady.cfg = (loaded small aaabbc).cfg ∧
    inputBytes sReady = inputBytes (loaded small aaabbc) ∧ sReady.phase ≠ (loaded small aaabbc).phase := by decide +kernel

/-- ArtifactMeetsThePaddingInvariant: a PACK from a state that meets the invariant, and succeeds. -/
theorem witness_padding : Inv sReady ∧ (ran .pack sReady).err = .ok := by decide +kernel

/-- ErrAndStickyRecordTheOutcome: two states that differ in ERR and ERRINFO, one stale error overwritten by a success and
one by another error. -/
theorem witness_overwrite : (ran .trim { sReady with err := .format, errInfo := 3#32 }).err = .ok ∧
    (ran .trim { sReady with err := .format, errInfo := 3#32 }).errInfo = 0#32 ∧
    (ran .build { sReady with err := .format, errInfo := 1#32 }).err = .sequence ∧
    (ran .build { sReady with err := .format, errInfo := 1#32 }).errInfo = 3#32 := by decide +kernel

/-- The rules over all commands: a command that fails, and one that is not legal. -/
theorem witness_failure : exec .pack sBuilt = .next (ran .pack sBuilt) ∧ exec .decompress (feed [] sReady) =
    .next (ran .decompress (feed [] sReady)) := ⟨exec_ran _ _, exec_ran _ _⟩
theorem witness_failure_codes : (ran .pack sBuilt).err ≠ .ok ∧ (ran .decompress (feed [] sReady)).err ≠ .ok ∧
    PhaseOk sReady := by decide +kernel

end Sys2Proof.Tests
end

/-! ## BUILD makes a tree (41_tree.md R144)

The merge loop keeps `MergeInv`: the nodes made so far are well formed, and every index is either queued or the child of
one node.  When one index is left in the queue, the nodes are a tree with that index as its root. -/

namespace Sys2Proof.Machine

open Sys2Proof

/-! ### Node lists that grow at the end -/

theorem freqAt_append {ns : List Node} {k : Nat} (h : k < ns.length) (ms : List Node) :
    freqAt (ns ++ ms) k = freqAt ns k := by
  simp [freqAt, List.getElem?_append_left h]

theorem freqAt_append_length (ns : List Node) (x : Node) : freqAt (ns ++ [x]) ns.length = x.freq := by
  simp [freqAt]

/-- A well-formed entry stays so when the list grows: its children stand before it. -/
theorem nodeOk_append {ns : List Node} {n k : Nat} {x : Node} (hk : k < ns.length) (ms : List Node)
    (h : nodeOk ns n k x = true) : nodeOk (ns ++ ms) n k x = true := by
  cases x with
  | leaf s f => exact h
  | internal f l r =>
    simp only [nodeOk, decide_eq_true_eq] at h ⊢
    rw [freqAt_append (by omega), freqAt_append (by omega)]
    exact h

/-- The children of a well-formed entry have smaller indices. -/
theorem children_lt_of_nodeOk {ns : List Node} {n k j : Nat} {x : Node} (h : nodeOk ns n k x = true)
    (hj : j ∈ x.children) : j < k := by
  cases x with
  | leaf s f => simp [Node.children] at hj
  | internal f l r =>
    simp only [nodeOk, decide_eq_true_eq] at h
    simp only [Node.children, List.mem_cons, List.not_mem_nil, or_false] at hj
    omega

/-- Neither the last index nor any above it is a child. -/
theorem count_children_of_length_le {ns : List Node} {n k : Nat}
    (h : ∀ j x, ns[j]? = some x → nodeOk ns n j x = true) (hk : ns.length ≤ k + 1) :
    (ns.flatMap Node.children).count k = 0 := by
  rw [List.count_eq_zero]
  intro hmem
  obtain ⟨x, hx, hkx⟩ := List.mem_flatMap.1 hmem
  obtain ⟨j, hj, rfl⟩ := List.mem_iff_getElem.1 hx
  have := children_lt_of_nodeOk (h j _ (List.getElem?_eq_getElem hj)) hkx
  omega

/-! ### One merge step -/

theorem argminKey_mem (ns : List Node) (q : Nat) (qs : List Nat) : argminKey ns q qs ∈ q :: qs := by
  induction qs generalizing q with
  | nil => simp [argminKey]
  | cons k qs ih =>
    have hstep : argminKey ns q (k :: qs) = argminKey ns (if keyLt ns k q then k else q) qs := rfl
    rw [hstep]
    split
    · exact List.mem_cons_of_mem _ (ih k)
    · rcases List.mem_cons.1 (ih q) with h | h
      · simp [h]
      · simp [h]

theorem popMin_eq_none {ns : List Node} {q : List Nat} : popMin ns q = none ↔ q = [] := by
  cases q <;> simp [popMin]

/-- A pop takes one index out of the queue. -/
theorem popMin_perm {ns : List Node} {q q' : List Nat} {m : Nat} (h : popMin ns q = some (m, q')) :
    q.Perm (m :: q') := by
  cases q with
  | nil => simp [popMin] at h
  | cons k qs =>
    simp only [popMin, Option.some.injEq, Prod.mk.injEq] at h
    obtain ⟨rfl, rfl⟩ := h
    exact List.perm_cons_erase (argminKey_mem ns k qs)

theorem length_le_one_of_mergeStep {ns : List Node} {q : List Nat} (h : mergeStep ns q = none) :
    q.length ≤ 1 := by
  cases hp : popMin ns q with
  | none => simp [popMin_eq_none.1 hp]
  | some p =>
    simp only [mergeStep, hp, Option.bind_some, Option.map_eq_none_iff, popMin_eq_none] at h
    simp [(popMin_perm hp).length_eq, h]

/-- A merge step takes two indices out of the queue, appends their parent and queues its index. -/
theorem mergeStep_eq_some {ns ns' : List Node} {q q' : List Nat} (h : mergeStep ns q = some (ns', q')) :
    ∃ a b r, q.Perm (a :: b :: r) ∧ ns' = ns ++ [mergeNode ns a b] ∧ q' = r ++ [ns.length] := by
  simp only [mergeStep, Option.bind_eq_some_iff, Option.map_eq_some_iff, Prod.mk.injEq] at h
  obtain ⟨⟨a, q₁⟩, ha, ⟨b, r⟩, hb, rfl, rfl⟩ := h
  exact ⟨a, b, r, (popMin_perm ha).trans ((popMin_perm hb).cons a), rfl, rfl⟩

/-! ### The leaves of a frequency table -/

theorem eq_leaf_of_mem_leaves {f : Table Word} {x : Node} (h : x ∈ leaves f) :
    ∃ s, x = .leaf s (entry f s) ∧ entry f s ≠ 0#32 := by
  rw [leaves_eq, List.mem_filterMap] at h
  obtain ⟨s, -, hs⟩ := h
  split at hs
  · cases hs
  · rename_i hne
    exact ⟨s, (Option.some.inj hs).symm, hne⟩

theorem leaves_length_le (f : Table Word) : (leaves f).length ≤ 256 := by
  rw [leaves_eq, ← allSymbols_length]
  exact List.length_filterMap_le _ _

theorem children_leaves (f : Table Word) : (leaves f).flatMap Node.children = [] := by
  rw [List.flatMap_eq_nil_iff]
  intro x hx
  obtain ⟨s, rfl, -⟩ := eq_leaf_of_mem_leaves hx
  rfl

theorem leafCount_leaves (f : Table Word) : leafCount (leaves f) = (leaves f).length := by
  rw [leafCount, List.countP_eq_length]
  intro x hx
  obtain ⟨s, rfl, -⟩ := eq_leaf_of_mem_leaves hx
  rfl

/-- The leaves stand in ascending symbol value (41_tree.md R141). -/
theorem leaves_ascending (f : Table Word) :
    ((leaves f).filterMap Node.sym).Pairwise (fun a b => a.toNat < b.toNat) := by
  have hsym : (leaves f).filterMap Node.sym = allSymbols.filter fun s => entry f s ≠ 0#32 := by
    rw [leaves_eq, List.filterMap_filterMap, ← List.filterMap_eq_filter]
    refine List.filterMap_congr fun s _ => ?_
    by_cases h : entry f s = 0#32 <;> simp [h, Node.sym, Option.guard]
  rw [hsym]
  exact allSymbols_ascending.filter _

/-- The counts of the leaves sum to the counts of the table: an entry without a leaf adds 0. -/
theorem sum_freq_leaves (f : Table Word) :
    ((leaves f).map fun x => x.freq.toNat).sum = freqTotal f := by
  rw [leaves_eq, freqTotal, toList_eq_map_entry, List.map_map]
  induction allSymbols with
  | nil => rfl
  | cons s ss ih =>
    rw [List.map_cons, List.sum_cons, ← ih, List.filterMap_cons]
    by_cases h : entry f s = 0#32 <;> simp [h, Node.freq]

theorem map_freqAt_range (ns : List Node) :
    (List.range ns.length).map (fun k => (freqAt ns k).toNat) = ns.map fun x => x.freq.toNat := by
  apply List.ext_getElem
  · simp
  · intro k h₁ h₂
    have hk : k < ns.length := by simpa using h₁
    simp [freqAt, hk]

/-! ### The invariant of the merge loop -/

/-- What holds of the nodes and the queue after every merge step on the table `f`. -/
structure MergeInv (f : Table Word) (ns : List Node) (q : List Nat) : Prop where
  leavesFirst : ∃ ms, ns = leaves f ++ ms ∧ ∀ x ∈ ms, ∃ g l r, x = .internal g l r
  shape : ∀ k x, ns[k]? = some x → nodeOk ns (leaves f).length k x = true
  size : ns.length + q.length = 2 * (leaves f).length
  once : ∀ k < ns.length, (ns.flatMap Node.children).count k + q.count k = 1
  queued : ∀ k ∈ q, k < ns.length
  total : (q.map fun k => (freqAt ns k).toNat).sum = freqTotal f

/-- Before the first merge the nodes are the leaves and all of them are queued. -/
theorem mergeInv_leaves (f : Table Word) : MergeInv f (leaves f) (List.range (leaves f).length) where
  leavesFirst := ⟨[], by simp⟩
  shape k x hx := by
    obtain ⟨s, rfl, hne⟩ := eq_leaf_of_mem_leaves (List.mem_of_getElem? hx)
    have hk := (List.getElem?_eq_some_iff.1 hx).1
    have hpos : (entry f s).toNat ≠ 0 := fun h0 => hne (BitVec.eq_of_toNat_eq h0)
    simp only [nodeOk, decide_eq_true_eq]
    omega
  size := by rw [List.length_range]; omega
  once k hk := by
    rw [children_leaves, List.count_nil, Nat.zero_add]
    exact List.count_eq_one_of_mem List.nodup_range (List.mem_range.2 hk)
  queued k hk := List.mem_range.1 hk
  total := by rw [map_freqAt_range, sum_freq_leaves]

section Merge

variable {f : Table Word} {ns : List Node} {q r : List Nat} {a b : Nat}

theorem MergeInv.lt_of_popped (h : MergeInv f ns q) (hq : q.Perm (a :: b :: r)) :
    a < ns.length ∧ b < ns.length ∧ ∀ k ∈ r, k < ns.length := by
  have hlt : ∀ k ∈ a :: b :: r, k < ns.length := fun k hk => h.queued k (hq.mem_iff.2 hk)
  exact ⟨hlt a (by simp), hlt b (by simp), fun k hk => hlt k (by simp [hk])⟩

/-- No index is queued twice, so the two popped ones differ. -/
theorem MergeInv.ne_of_popped (h : MergeInv f ns q) (hq : q.Perm (a :: b :: r)) : a ≠ b := by
  rintro rfl
  have honce := h.once a (h.lt_of_popped hq).1
  simp only [hq.count_eq, List.count_cons_self] at honce
  omega

theorem MergeInv.total_of_popped (h : MergeInv f ns q) (hq : q.Perm (a :: b :: r)) :
    (freqAt ns a).toNat + ((freqAt ns b).toNat + (r.map fun k => (freqAt ns k).toNat).sum) = freqTotal f := by
  rw [← h.total, (hq.map fun k => (freqAt ns k).toNat).sum_eq]
  simp

/-- The parent's frequency does not wrap: it is part of the table's total. -/
theorem MergeInv.toNat_freqAt_add (h : MergeInv f ns q) (hf : freqTotal f < 2 ^ 32) (hq : q.Perm (a :: b :: r)) :
    (freqAt ns a + freqAt ns b).toNat = (freqAt ns a).toNat + (freqAt ns b).toNat := by
  have htotal := h.total_of_popped hq
  exact BitVec.toNat_add_of_lt (by omega)

theorem MergeInv.nodeOk_mergeNode (h : MergeInv f ns q) (hf : freqTotal f < 2 ^ 32) (hq : q.Perm (a :: b :: r)) :
    nodeOk (ns ++ [mergeNode ns a b]) (leaves f).length ns.length (mergeNode ns a b) = true := by
  obtain ⟨ms, hms, -⟩ := h.leavesFirst
  have hn : (leaves f).length ≤ ns.length := by simp [hms]
  obtain ⟨ha, hb, -⟩ := h.lt_of_popped hq
  simp only [mergeNode, nodeOk, decide_eq_true_eq, freqAt_append ha, freqAt_append hb]
  exact ⟨hn, ha, hb, h.ne_of_popped hq, h.toNat_freqAt_add hf hq⟩

theorem MergeInv.shape_merge (h : MergeInv f ns q) (hf : freqTotal f < 2 ^ 32) (hq : q.Perm (a :: b :: r)) {k : Nat}
    {x : Node} (hx : (ns ++ [mergeNode ns a b])[k]? = some x) :
    nodeOk (ns ++ [mergeNode ns a b]) (leaves f).length k x = true := by
  by_cases hk : k < ns.length
  · rw [List.getElem?_append_left hk] at hx
    exact nodeOk_append hk _ (h.shape k x hx)
  · have hk' := (List.getElem?_eq_some_iff.1 hx).1
    rw [List.length_append, List.length_singleton] at hk'
    obtain rfl : k = ns.length := by omega
    obtain rfl : mergeNode ns a b = x := by simpa using hx
    exact h.nodeOk_mergeNode hf hq

/-- The popped indices become children of the new node, and the new index is queued. -/
theorem MergeInv.once_merge (h : MergeInv f ns q) (hq : q.Perm (a :: b :: r)) {k : Nat} (hk : k ≤ ns.length) :
    ((ns ++ [mergeNode ns a b]).flatMap Node.children).count k + (r ++ [ns.length]).count k = 1 := by
  obtain ⟨ha, hb, hr⟩ := h.lt_of_popped hq
  simp only [List.flatMap_append, List.flatMap_singleton, List.count_append, mergeNode, Node.children,
    List.count_cons, List.count_nil, beq_iff_eq]
  rcases Nat.lt_or_eq_of_le hk with hk | rfl
  · have honce := h.once k hk
    simp only [hq.count_eq, List.count_cons, beq_iff_eq] at honce
    rw [if_neg (show ns.length ≠ k by omega)]
    omega
  · have hr0 : r.count ns.length = 0 := List.count_eq_zero.2 fun hm => (hr _ hm).false
    rw [count_children_of_length_le h.shape (by omega), hr0, if_neg hb.ne, if_neg ha.ne, if_pos rfl]

theorem MergeInv.total_merge (h : MergeInv f ns q) (hf : freqTotal f < 2 ^ 32) (hq : q.Perm (a :: b :: r)) :
    ((r ++ [ns.length]).map fun k => (freqAt (ns ++ [mergeNode ns a b]) k).toNat).sum = freqTotal f := by
  obtain ⟨-, -, hr⟩ := h.lt_of_popped hq
  have hold : r.map (fun k => (freqAt (ns ++ [mergeNode ns a b]) k).toNat) = r.map fun k => (freqAt ns k).toNat :=
    List.map_congr_left fun k hk => by rw [freqAt_append (hr k hk)]
  have htotal := h.total_of_popped hq
  rw [List.map_append, hold, List.sum_append, List.map_singleton, List.sum_singleton, freqAt_append_length]
  simp only [mergeNode, Node.freq, h.toNat_freqAt_add hf hq]
  omega

theorem MergeInv.merge (h : MergeInv f ns q) (hf : freqTotal f < 2 ^ 32) (hq : q.Perm (a :: b :: r)) :
    MergeInv f (ns ++ [mergeNode ns a b]) (r ++ [ns.length]) where
  leavesFirst := by
    obtain ⟨ms, hms, hint⟩ := h.leavesFirst
    refine ⟨ms ++ [mergeNode ns a b], by simp [hms], fun x hx => ?_⟩
    rcases List.mem_append.1 hx with hx | hx
    · exact hint x hx
    · exact ⟨_, a, b, List.mem_singleton.1 hx⟩
  shape _ _ hx := h.shape_merge hf hq hx
  size := by
    have hsize := h.size
    simp only [hq.length_eq, List.length_cons] at hsize
    simp only [List.length_append, List.length_singleton]
    omega
  once k hk := h.once_merge hq (by simpa [Nat.lt_succ_iff] using hk)
  queued k hk := by
    rw [List.length_append, List.length_singleton]
    rcases List.mem_append.1 hk with hk | hk
    · exact Nat.lt_succ_of_lt ((h.lt_of_popped hq).2.2 k hk)
    · exact Nat.lt_succ_of_le (List.mem_singleton.1 hk).le
  total := h.total_merge hf hq

end Merge

/-- With fuel for all but one of the queued indices the loop ends with at most one. -/
theorem MergeInv.loop {f : Table Word} (hf : freqTotal f < 2 ^ 32) (fuel : Nat) {ns : List Node} {q : List Nat}
    (h : MergeInv f ns q) (hq : q.length ≤ fuel + 1) :
    MergeInv f (mergeLoop fuel ns q).1 (mergeLoop fuel ns q).2 ∧ (mergeLoop fuel ns q).2.length ≤ 1 := by
  induction fuel generalizing ns q with
  | zero => exact ⟨h, hq⟩
  | succ fuel ih =>
    unfold mergeLoop
    cases hs : mergeStep ns q with
    | none => exact ⟨h, length_le_one_of_mergeStep hs⟩
    | some p =>
      obtain ⟨a, b, r, hperm, hns, hq'⟩ := mergeStep_eq_some (ns' := p.1) (q' := p.2) hs
      have hlen := hperm.length_eq
      simp only [List.length_cons] at hlen
      dsimp only
      rw [hns, hq']
      exact ih (h.merge hf hperm) (by simp; omega)

theorem mergeInv_mergeAll {f : Table Word} (hf : freqTotal f < 2 ^ 32) :
    MergeInv f (mergeAll f).1 (mergeAll f).2 ∧ (mergeAll f).2.length ≤ 1 :=
  (mergeInv_leaves f).loop hf _ (by rw [List.length_range]; omega)

/-! ### The tree at the end of the loop -/

theorem MergeInv.leafCount_eq {f : Table Word} {ns : List Node} {q : List Nat} (h : MergeInv f ns q) :
    leafCount ns = (leaves f).length := by
  obtain ⟨ms, rfl, hint⟩ := h.leavesFirst
  have hms : ms.countP Node.isLeaf = 0 := by
    rw [List.countP_eq_zero]
    intro x hx
    obtain ⟨g, l, r, rfl⟩ := hint x hx
    simp [Node.isLeaf]
  rw [← leafCount_leaves, leafCount, List.countP_append, hms, leafCount, Nat.add_zero]

theorem MergeInv.sym_ascending {f : Table Word} {ns : List Node} {q : List Nat} (h : MergeInv f ns q) :
    (ns.filterMap Node.sym).Pairwise (fun a b => a.toNat < b.toNat) := by
  obtain ⟨ms, rfl, hint⟩ := h.leavesFirst
  have hms : ms.filterMap Node.sym = [] := by
    rw [List.filterMap_eq_nil_iff]
    intro x hx
    obtain ⟨g, l, r, rfl⟩ := hint x hx
    rfl
  rw [List.filterMap_append, hms, List.append_nil]
  exact leaves_ascending f

/-- The last index is no child, so it is the one left in the queue. -/
theorem MergeInv.queue_eq {f : Table Word} {ns : List Node} {q : List Nat} (h : MergeInv f ns q)
    (hq : q.length ≤ 1) : q = if ns = [] then [] else [ns.length - 1] := by
  split
  · rename_i hns
    rw [List.eq_nil_iff_forall_not_mem]
    intro k hk
    simpa [hns] using h.queued k hk
  · rename_i hns
    have hpos := List.length_pos_iff.2 hns
    have hlast := h.once (ns.length - 1) (by omega)
    rw [count_children_of_length_le h.shape (by omega), Nat.zero_add] at hlast
    have hmem : ns.length - 1 ∈ q := List.count_pos_iff.1 (by omega)
    obtain ⟨x, rfl⟩ := List.length_eq_one_iff.1 (Nat.le_antisymm hq (List.length_pos_of_mem hmem))
    rw [List.mem_singleton.1 hmem]

theorem MergeInv.treeOk {f : Table Word} {ns : List Node} {q : List Nat} (h : MergeInv f ns q)
    (hq : q.length ≤ 1) : TreeOk ns := by
  have hqueue := h.queue_eq hq
  have hsize := h.size
  rw [TreeOk, h.leafCount_eq]
  refine ⟨?_, leaves_length_le f, ?_, h.sym_ascending, ?_⟩
  · split at hqueue
    · rename_i hns
      rw [hqueue, hns] at hsize
      rw [hns]
      simp only [List.length_nil] at hsize ⊢
      omega
    · rw [hqueue, List.length_singleton] at hsize
      omega
  · intro k hk
    rw [List.getElem?_eq_getElem hk]
    exact h.shape k _ (List.getElem?_eq_getElem hk)
  · intro k hk
    have honce := h.once k (by omega)
    have hnot : q.count k = 0 := by
      rw [hqueue, List.count_eq_zero]
      split
      · simp
      · rw [List.mem_singleton]
        omega
    omega

/-- BUILD makes a tree of every table whose counts sum to a word (41_tree.md R144). -/
theorem treeOk_buildNodes {f : Table Word} (hf : freqTotal f < 2 ^ 32) : TreeOk (buildNodes f) := by
  obtain ⟨h, hq⟩ := mergeInv_mergeAll hf
  exact h.treeOk hq

/-- The root is the last node made (41_tree.md R144). -/
theorem buildRoot_eq {f : Table Word} (hf : freqTotal f < 2 ^ 32) :
    buildRoot f = (buildNodes f).length - 1 := by
  obtain ⟨h, hq⟩ := mergeInv_mergeAll hf
  rw [buildRoot, buildNodes, h.queue_eq hq]
  split
  · rename_i hns
    simp [hns]
  · rfl

theorem TreeOk.length_lt {ns : List Node} (h : TreeOk ns) : ns.length < 512 := by
  obtain ⟨hlen, hcount, -⟩ := h
  omega

end Sys2Proof.Machine

/-! ## DERIVE makes a table in which no code begins another (42_codetable.md R164, R166)

A code is the path to a leaf, and no path goes on past a leaf.  Each step of a path uses up one Internal node, which
bounds the length. -/

namespace Sys2Proof.Machine

open Sys2Proof

/-! ### Code tables by entry -/

theorem mem_validCodes {t : Table (Option Bits)} {p : Byte × Bits} :
    p ∈ validCodes t ↔ entry t p.1 = some p.2 := by
  simp only [validCodes_eq, List.mem_filterMap, mem_allSymbols, true_and, Option.map_eq_some_iff]
  constructor
  · rintro ⟨s, c, hs, rfl⟩
    exact hs
  · intro h
    exact ⟨p.1, p.2, h, rfl⟩

/-- 10_state.md R44 (d), by entry: no symbol's code begins another symbol's, and all have 1 to 255 bits. -/
theorem codesOk_of_entries {t : Table (Option Bits)}
    (hp : ∀ x y c d, x ≠ y → entry t x = some c → entry t y = some d → ¬ c <+: d)
    (hl : ∀ x c, entry t x = some c → 1 ≤ c.length ∧ c.length ≤ 255) : CodesOk t := by
  refine ⟨?_, fun p h => hl p.1 p.2 (mem_validCodes.1 h)⟩
  rw [validCodes_eq, List.pairwise_filterMap]
  refine allSymbols_nodup.imp ?_
  intro x y hxy p hpx q hqy
  obtain ⟨c, hc, rfl⟩ := Option.map_eq_some_iff.1 hpx
  obtain ⟨d, hd, rfl⟩ := Option.map_eq_some_iff.1 hqy
  exact ⟨hp x y c d hxy hc hd, hp y x d c hxy.symm hd hc⟩

theorem CodesOk.length_le {t : Table (Option Bits)} (h : CodesOk t) {s : Byte} {c : Bits}
    (hc : entry t s = some c) : c.length ≤ 255 :=
  (h.2 (s, c) (mem_validCodes.2 hc)).2

theorem validCodes_replicate_none : validCodes (Vector.replicate 256 none) = [] := by
  rw [List.eq_nil_iff_forall_not_mem]
  intro p hp
  simpa using mem_validCodes.1 hp

theorem codesOk_replicate_none : CodesOk (Vector.replicate 256 none) := by
  rw [CodesOk, validCodes_replicate_none]
  simp

/-- A symbol's code in the table of some pairs is one of the pairs. -/
theorem mem_of_entry_codeTableOf {ps : List (Byte × Bits)} {s : Byte} {c : Bits}
    (h : entry (codeTableOf ps) s = some c) : (s, c) ∈ ps := by
  rw [codeTableOf, entry_tabulate, List.lookup_eq_some_iff] at h
  obtain ⟨l₁, l₂, rfl, -⟩ := h
  simp

/-! ### Paths in a node list -/

@[simp] theorem follow_nil (ns : List Node) (k : Nat) : follow ns k [] = some k := rfl

theorem follow_cons (ns : List Node) (k : Nat) (b : Bool) (p : Bits) :
    follow ns k (b :: p) = (edge ns k b).bind fun j => follow ns j p := by
  rw [follow]
  cases edge ns k b <;> rfl

theorem follow_append (ns : List Node) (k : Nat) (p q : Bits) :
    follow ns k (p ++ q) = (follow ns k p).bind fun j => follow ns j q := by
  induction p generalizing k with
  | nil => rfl
  | cons b p ih => simp [follow_cons, ih, Option.bind_assoc]

theorem symbolAtPath_eq (ns : List Node) (k : Nat) (p : Bits) :
    symbolAtPath ns k p = (follow ns k p).bind fun j => ns[j]?.bind Node.sym := by
  rw [symbolAtPath]
  cases follow ns k p <;> rfl

theorem edge_internal {ns : List Node} {k : Nat} {f : Word} {l r : Nat} (h : ns[k]? = some (.internal f l r))
    (b : Bool) : edge ns k b = some (if b then r else l) := by
  simp [edge, h]

/-- An edge leaves an Internal node only. -/
theorem internal_of_edge {ns : List Node} {k j : Nat} {b : Bool} (h : edge ns k b = some j) :
    ∃ f l r, ns[k]? = some (.internal f l r) ∧ (j = l ∨ j = r) := by
  unfold edge at h
  split at h
  · rename_i f l r hk
    refine ⟨f, l, r, hk, ?_⟩
    cases b
    · exact .inl (Option.some.inj h).symm
    · exact .inr (Option.some.inj h).symm
  · cases h
  · cases h

/-- The walk emits each leaf's symbol with the path to it, after the bits accumulated before. -/
theorem path_of_mem_visit {ns : List Node} {fuel k : Nat} {acc : Bits} {s : Byte} {c : Bits}
    (h : (s, c) ∈ visit ns fuel k acc) : ∃ p, c = acc ++ p ∧ symbolAtPath ns k p = some s := by
  induction fuel generalizing k acc with
  | zero => simp [visit] at h
  | succ fuel ih =>
    unfold visit at h
    split at h
    · simp at h
    · rename_i sym f hk
      simp only [List.mem_singleton, Prod.mk.injEq] at h
      obtain ⟨rfl, rfl⟩ := h
      exact ⟨[], by simp, by simp [symbolAtPath_eq, hk, Node.sym]⟩
    · rename_i f l r hk
      rcases List.mem_append.1 h with h | h
      · obtain ⟨p, rfl, hp⟩ := ih h
        exact ⟨false :: p, by simp, by simpa [symbolAtPath_eq, follow_cons, edge_internal hk] using hp⟩
      · obtain ⟨p, rfl, hp⟩ := ih h
        exact ⟨true :: p, by simp, by simpa [symbolAtPath_eq, follow_cons, edge_internal hk] using hp⟩

/-- No path to a leaf goes on to another leaf (42_codetable.md R164). -/
theorem symbolAtPath_eq_of_prefix {ns : List Node} {k : Nat} {c d : Bits} {x y : Byte} (hcd : c <+: d)
    (hx : symbolAtPath ns k c = some x) (hy : symbolAtPath ns k d = some y) : x = y := by
  obtain ⟨e, rfl⟩ := hcd
  rw [symbolAtPath_eq, Option.bind_eq_some_iff] at hx
  obtain ⟨j, hj, hsym⟩ := hx
  cases e with
  | nil => simpa [symbolAtPath_eq, hj, hsym] using hy
  | cons b e =>
    have hedge : edge ns j b = none := by
      rw [Option.eq_none_iff_forall_ne_some]
      intro i hi
      obtain ⟨f, l, r, hint, -⟩ := internal_of_edge hi
      simp [hint, Node.sym] at hsym
    simp [symbolAtPath_eq, follow_append, hj, follow_cons, hedge] at hy

/-! ### Paths in a tree -/

theorem TreeOk.nodeOk_of_getElem? {ns : List Node} (h : TreeOk ns) {k : Nat} {x : Node} (hk : ns[k]? = some x) :
    nodeOk ns (leafCount ns) k x = true := by
  obtain ⟨-, -, hshape, -⟩ := h
  have := hshape k (List.getElem?_eq_some_iff.1 hk).1
  simpa [hk] using this

/-- An edge leads from an Internal node, which stands after the leaves, to a smaller index. -/
theorem TreeOk.edge_lt {ns : List Node} (h : TreeOk ns) {k j : Nat} {b : Bool} (he : edge ns k b = some j) :
    leafCount ns ≤ k ∧ j < k := by
  obtain ⟨f, l, r, hk, hj⟩ := internal_of_edge he
  have hok := h.nodeOk_of_getElem? hk
  simp only [nodeOk, decide_eq_true_eq] at hok
  omega

/-- Every step of a path starts at one of the `n - 1` Internal nodes, each time at a smaller index. -/
theorem TreeOk.length_follow {ns : List Node} (h : TreeOk ns) {k j : Nat} {p : Bits}
    (hp : follow ns k p = some j) (hne : p ≠ []) : p.length + leafCount ns ≤ k + 1 := by
  induction p generalizing k with
  | nil => exact absurd rfl hne
  | cons b p ih =>
    rw [follow_cons, Option.bind_eq_some_iff] at hp
    obtain ⟨i, hi, hp⟩ := hp
    have hlt := h.edge_lt hi
    cases p with
    | nil => simp only [List.length_singleton]; omega
    | cons b' p' =>
      have := ih hp (by simp)
      simp only [List.length_cons] at this ⊢
      omega

/-! ### The derived table -/

/-- A code of a tree's table is the code "0" of a root that is a leaf, or the path from an Internal root to the
symbol's leaf (42_codetable.md R161, R162). -/
theorem entry_treeTable {ns : List Node} {s : Byte} {c : Bits} (h : entry (treeTable ns) s = some c) :
    (∃ f, ns[ns.length - 1]? = some (.leaf s f) ∧ c = [false]) ∨
    (c ≠ [] ∧ (∀ sym f, ns[ns.length - 1]? ≠ some (.leaf sym f)) ∧
      symbolAtPath ns (ns.length - 1) c = some s) := by
  have hmem := mem_of_entry_codeTableOf h
  unfold derive at hmem
  split at hmem
  · simp at hmem
  · split at hmem
    · rename_i sym f hroot
      simp only [List.mem_singleton, Prod.mk.injEq] at hmem
      obtain ⟨rfl, rfl⟩ := hmem
      exact .inl ⟨f, hroot, rfl⟩
    · rename_i hroot
      obtain ⟨p, rfl, hp⟩ := path_of_mem_visit hmem
      refine .inr ⟨?_, hroot, hp⟩
      rintro rfl
      rw [symbolAtPath_eq, follow_nil, Option.bind_some, Option.bind_eq_some_iff] at hp
      obtain ⟨x, hx, hsym⟩ := hp
      cases x with
      | leaf sym f => exact hroot sym f hx
      | internal f l r => simp [Node.sym] at hsym

theorem treeTable_prefixFree {ns : List Node} {x y : Byte} {c d : Bits} (hxy : x ≠ y)
    (hx : entry (treeTable ns) x = some c) (hy : entry (treeTable ns) y = some d) : ¬ c <+: d := by
  intro hcd
  rcases entry_treeTable hx with ⟨f, hroot, -⟩ | ⟨-, hint, hpx⟩
  · rcases entry_treeTable hy with ⟨g, hroot', -⟩ | ⟨-, hint, -⟩
    · rw [hroot] at hroot'
      exact hxy (by injection hroot' with h; injection h)
    · exact hint x f hroot
  · rcases entry_treeTable hy with ⟨g, hroot', -⟩ | ⟨-, -, hpy⟩
    · exact hint y g hroot'
    · exact hxy (symbolAtPath_eq_of_prefix hcd hpx hpy)

/-- A code has at least one bit and at most one for each Internal node, or one (42_codetable.md R166). -/
theorem TreeOk.codeLength_le {ns : List Node} (h : TreeOk ns) {s : Byte} {c : Bits}
    (hc : entry (treeTable ns) s = some c) : 1 ≤ c.length ∧ c.length ≤ max 1 (leafCount ns - 1) := by
  rcases entry_treeTable hc with ⟨f, -, rfl⟩ | ⟨hne, -, hp⟩
  · simp
  · rw [symbolAtPath_eq, Option.bind_eq_some_iff] at hp
    obtain ⟨j, hj, -⟩ := hp
    have hlen := h.length_follow hj hne
    have hpos := List.length_pos_iff.2 hne
    obtain ⟨hsize, -⟩ := h
    omega

theorem TreeOk.codesOk_treeTable {ns : List Node} (h : TreeOk ns) : CodesOk (treeTable ns) := by
  refine codesOk_of_entries (fun x y c d => treeTable_prefixFree) fun x c hc => ?_
  have hlen := h.codeLength_le hc
  obtain ⟨-, hcount, -⟩ := h
  omega

/-- DERIVE reads the whole of NODE when NODE_CNT and ROOT belong to it. -/
theorem derivedTable_eq {s : State} (h : NodesOk s) : derivedTable s = treeTable s.node := by
  obtain ⟨-, hcnt, hroot⟩ := h
  rw [derivedTable, treeTable, hcnt, hroot, List.take_length]

end Sys2Proof.Machine

/-! ## Counts and lengths (40_frequency.md R126, 43_pack.md R181, 10_state.md R31, R32) -/

namespace Sys2Proof.Machine

open Sys2Proof

/-! ### Counts -/

/-- A number that fits a register is kept by it. -/
theorem toNat_ofNat_word {n : Nat} (h : n < 2 ^ 32) : (BitVec.ofNat 32 n).toNat = n := by
  rw [BitVec.toNat_ofNat, Nat.mod_eq_of_lt h]

theorem symbolCount_le (f : Table Word) : symbolCount f ≤ 256 := by
  simpa [symbolCount] using List.countP_le_length (p := fun n : Word => n != 0#32) (l := f.toList)

/-- Trimming never lengthens (40_frequency.md R121). -/
theorem trim_length_le (ws b : List Byte) : (trim ws b).length ≤ b.length := by
  simpa [trim] using (List.dropWhile_suffix (l := b.reverse) ws.contains).length_le

/-- Each byte is counted once, at its own symbol. -/
theorem sum_count_allSymbols (b : List Byte) : (allSymbols.map fun s => b.count s).sum = b.length := by
  calc (allSymbols.map fun s => b.count s).sum
    _ = ∑ s ∈ allSymbols.toFinset, (b : Multiset Byte).count s := by
      simp only [Multiset.coe_count]
      exact (List.sum_toFinset _ allSymbols_nodup).symm
    _ = (b : Multiset Byte).card :=
      Multiset.sum_count_eq_card fun s _ => List.mem_toFinset.2 (mem_allSymbols s)
    _ = b.length := Multiset.coe_card b

/-- The counts of an input sum to its length (40_frequency.md R126). -/
theorem freqTotal_analyze {b : List Byte} (hb : b.length < 2 ^ 32) : freqTotal (analyze b) = b.length := by
  rw [freqTotal, analyze, toList_tabulate, List.map_map, ← sum_count_allSymbols b]
  congr 1
  refine List.map_congr_left fun s _ => ?_
  exact toNat_ofNat_word (List.count_le_length.trans_lt hb)

theorem inputBytes_length_lt (s : State) : (inputBytes s).length < 2 ^ 32 := by
  rw [inputBytes_length]
  exact s.inLen.isLt

/-! ### Results of PACK and DECOMPRESS -/

/-- What an OUT-writing command may produce under a configuration: bytes that fit OUT, and BIT_LEN and PAD in their
ranges (10_state.md R27, R31, R32). -/
structure ProducedOk (c : Config) (o : Produced) : Prop where
  bytes : o.bytes.length ≤ c.outCap
  bitLen : o.bitLen ≤ 255 * 2 ^ 24
  pad : o.pad ≤ 255

theorem encodeFrom_length_le {t : Table (Option Bits)} (ht : CodesOk t) {i : Nat} {b : List Byte} {d : Bits}
    (h : encodeFrom t i b = .ok d) : d.length ≤ 255 * b.length := by
  fun_induction encodeFrom t i b generalizing d with
  | case1 =>
    cases h
    simp
  | case2 => cases h
  | case3 => cases h
  | case4 i x b c hc r hr ih =>
    cases h
    have hc' := ht.length_le hc
    have hr' := ih hr
    simp only [List.length_append, List.length_cons]
    omega

theorem unpadBits_ok {u d : Bits} {x : Nat} (h : unpadBits u = .ok (d, x)) : d.length ≤ u.length ∧ x ≤ 255 := by
  unfold unpadBits at h
  split at h
  · cases h
  · split at h
    · cases h
    · cases h
      refine ⟨?_, ?_⟩
      · simp only [List.length_take, List.length_drop]
        omega
      · have hval := val_lt (u.take 8)
        have hpow : 2 ^ (u.take 8).length ≤ 2 ^ 8 := Nat.pow_le_pow_right (by omega) (by simp)
        omega

theorem fitOut_ok {n : Nat} {p o : Produced} (h : fitOut n p = .ok o) : o = p ∧ p.bytes.length ≤ n := by
  unfold fitOut at h
  split at h
  · cases h
  · cases h
    exact ⟨rfl, by omega⟩

/-- PACK's result is what `encode` and `toBytes` give, and fits OUT. -/
theorem packProduce_ok {s : State} {o : Produced} (h : packProduce s = .ok o) :
    ∃ d a, encodeBits s.code (inputBytes s) = .ok d ∧ o = ⟨a, d.length, (a.headD 0#8).toNat⟩ ∧
      a.length ≤ s.cfg.outCap := by
  unfold packProduce at h
  split at h
  · cases h
  · rename_i d hd
    split at h
    · cases h
    · rename_i a _
      obtain ⟨rfl, hfit⟩ := fitOut_ok h
      exact ⟨d, a, hd, rfl, hfit⟩

/-- DECOMPRESS's result is what `unpad` and `decode` give, and fits OUT. -/
theorem unpackProduce_ok {s : State} {o : Produced} (h : unpackProduce s = .ok o) :
    ∃ d x out, unpadBits (fromBytes (inputBytes s)) = .ok (d, x) ∧ o = ⟨out, d.length, x⟩ ∧
      out.length ≤ s.cfg.outCap := by
  unfold unpackProduce at h
  split at h
  · cases h
  · rename_i d x hd
    split at h
    · cases h
    · rename_i out _
      obtain ⟨rfl, hfit⟩ := fitOut_ok h
      exact ⟨d, x, out, hd, rfl, hfit⟩

theorem packProduce_producedOk {s : State} (ht : CodesOk s.code) (hin : s.inLen.toNat ≤ 2 ^ 24) {o : Produced}
    (h : packProduce s = .ok o) : ProducedOk s.cfg o := by
  obtain ⟨d, a, hd, rfl, hfit⟩ := packProduce_ok h
  have hlen : d.length ≤ 255 * s.inLen.toNat := by
    simpa using encodeFrom_length_le ht hd
  exact ⟨hfit, hlen.trans (Nat.mul_le_mul_left 255 hin), Nat.le_of_lt_succ (a.headD 0#8).isLt⟩

theorem unpackProduce_producedOk {s : State} (hin : s.inLen.toNat ≤ 2 ^ 24) {o : Produced}
    (h : unpackProduce s = .ok o) : ProducedOk s.cfg o := by
  obtain ⟨d, x, out, hd, rfl, hfit⟩ := unpackProduce_ok h
  obtain ⟨hlen, hx⟩ := unpadBits_ok hd
  rw [fromBytes_length, inputBytes_length] at hlen
  exact ⟨hfit, by dsimp only; omega, hx⟩

/-! ### What the OUT-writing commands raise is an error -/

theorem encodeFrom_error {t : Table (Option Bits)} {i : Nat} {b : List Byte} {e : Raise}
    (h : encodeFrom t i b = .error e) : e.code = .missingCode := by
  fun_induction encodeFrom t i b with
  | case1 => cases h
  | case2 =>
    cases h
    rfl
  | case3 i x b c hc e' he ih =>
    cases h
    exact ih he
  | case4 => cases h

theorem toBytes_error {p : Bits} {e : Raise} (h : toBytes p = .error e) : e.code = .format := by
  fun_induction toBytes p with
  | case1 => cases h
  | case2 b7 b6 b5 b4 b3 b2 b1 b0 rest e' he ih =>
    cases h
    exact ih he
  | case3 => cases h
  | case4 =>
    cases h
    rfl

theorem unpadBits_error {u : Bits} {e : Raise} (h : unpadBits u = .error e) : e.code = .format := by
  unfold unpadBits at h
  split at h
  · cases h
    rfl
  · split at h
    · cases h
      rfl
    · cases h

theorem decodeScan_error {t : Table (Option Bits)} {cand d : Bits} {e : Raise}
    (h : decodeScan t cand d = .error e) : e.code = .format := by
  fun_induction decodeScan t cand d with
  | case1 => cases h
  | case2 =>
    cases h
    rfl
  | case3 cand x d hnone ih => exact ih h
  | case4 cand x d s hs e' he ih =>
    cases h
    exact ih he
  | case5 => cases h

theorem fitOut_error {n : Nat} {p : Produced} {e : Raise} (h : fitOut n p = .error e) : e.code = .overflow := by
  unfold fitOut at h
  split at h
  · cases h
    rfl
  · cases h

theorem sequenceRaise_code (s : State) : (sequenceRaise s).code ≠ .ok := by simp [sequenceRaise]

/-- PACK's work never raises the code 0 (43_pack.md R185). -/
theorem packProduce_error {s : State} {e : Raise} (h : packProduce s = .error e) : e.code ≠ .ok := by
  unfold packProduce at h
  split at h
  · rename_i he
    cases h
    simp [encodeFrom_error he]
  · split at h
    · rename_i he
      cases h
      simp [toBytes_error he]
    · simp [fitOut_error h]

/-- DECOMPRESS's work never raises the code 0 (44_unpack.md R204). -/
theorem unpackProduce_error {s : State} {e : Raise} (h : unpackProduce s = .error e) : e.code ≠ .ok := by
  unfold unpackProduce at h
  split at h
  · rename_i he
    cases h
    simp [unpadBits_error he]
  · split at h
    · rename_i he
      cases h
      simp [decodeScan_error he]
    · simp [fitOut_error h]

end Sys2Proof.Machine

/-! ## The invariants of 10_state.md R44 along every step -/

namespace Sys2Proof.Machine

open Sys2Proof

theorem config_wf_iff {c : Config} :
    c.wf = true ↔ 1 ≤ c.inCap ∧ c.inCap ≤ 2 ^ 24 ∧ 2 ≤ c.outCap ∧ c.outCap ≤ 2 ^ 27 := by
  rw [Config.wf, decide_eq_true_iff]

/-! ### The invariant after reset -/

theorem freqOk_resetWith (c : Config) : FreqOk (State.resetWith c) := by
  have hcount : symbolCount (Vector.replicate 256 0#32) = 0 := by
    rw [symbolCount, Vector.toList_replicate, List.countP_replicate]
    rfl
  have htotal : freqTotal (Vector.replicate 256 0#32) = 0 := by
    rw [freqTotal, Vector.toList_replicate, List.map_replicate, List.sum_replicate]
    rfl
  exact ⟨hcount.symm, htotal.trans_le (Nat.zero_le _)⟩

theorem nodesOk_resetWith (c : Config) : NodesOk (State.resetWith c) := by
  have htree : TreeOk [] := by decide
  exact ⟨htree, rfl, rfl⟩

/-- After reset all lengths are 0 and all tables and buffers empty (10_state.md R45). -/
theorem inv_resetWith {c : Config} (hc : c.wf = true) : Inv (State.resetWith c) := by
  have htable : TableOk (State.resetWith c) := ⟨codesOk_replicate_none, fun _ => validCodes_replicate_none⟩
  have hphase : PhaseOk (State.resetWith c) := by simp [State.resetWith]
  obtain ⟨hin, hout⟩ := reset_buffers_wf c
  exact ⟨hc, ⟨Nat.zero_le _, Nat.zero_le _⟩, freqOk_resetWith c, nodesOk_resetWith c, htable, hphase,
    ⟨fun _ => rfl, fun _ => rfl⟩, ⟨Nat.zero_le _, Nat.zero_le _⟩, hin, by simp [State.resetWith], hout, rfl⟩

/-- Settles O6: `Inv` field by field for the reset values. -/
theorem resetMeetsTheInvariant : Obligations.ResetMeetsTheInvariant := by
  unfold Obligations.ResetMeetsTheInvariant
  exact ⟨fun _ hc => inv_resetWith hc, inv_resetWith (by decide)⟩

/-! ### What the invariant gives the commands -/

theorem Inv.inLen_le {s : State} (h : Inv s) : s.inLen.toNat ≤ 2 ^ 24 := by
  obtain ⟨hcfg, ⟨hin, -⟩, -⟩ := h
  obtain ⟨-, hcap, -⟩ := config_wf_iff.1 hcfg
  exact hin.trans hcap

theorem Inv.freqTotal_lt {s : State} (h : Inv s) : freqTotal s.freq < 2 ^ 32 := by
  obtain ⟨hcfg, -, ⟨-, htotal⟩, -⟩ := h
  obtain ⟨-, hcap, -⟩ := config_wf_iff.1 hcfg
  omega

theorem Inv.codesOk {s : State} (h : Inv s) : CodesOk s.code := by
  obtain ⟨-, -, -, -, ⟨hcodes, -⟩, -⟩ := h
  exact hcodes

theorem Inv.nodesOk {s : State} (h : Inv s) : NodesOk s := by
  obtain ⟨-, -, -, hnodes, -⟩ := h
  exact hnodes

theorem Inv.phaseOk {s : State} (h : Inv s) : PhaseOk s := by
  obtain ⟨-, -, -, -, -, hphase, -⟩ := h
  exact hphase

/-! ### Each operation keeps the invariant -/

theorem Inv.after_setInLen {s : State} (h : Inv s) {n : Word} (hn : n.toNat ≤ s.cfg.inCap) : Inv (setInLen n s) := by
  obtain ⟨hcfg, ⟨-, hout⟩, hrest⟩ := h
  exact ⟨hcfg, ⟨hn, hout⟩, hrest⟩

theorem Inv.after_setPhase {s : State} (h : Inv s) {p : Phase} (hp : p = .tableReady ∨ p = .packed → s.tv = true) :
    Inv (setPhase p s) := by
  obtain ⟨hcfg, hlen, hfreq, hnodes, htable, -, hrest⟩ := h
  exact ⟨hcfg, hlen, hfreq, hnodes, htable, hp, hrest⟩

theorem Inv.after_writeIn {s : State} (h : Inv s) {i : Nat} (hi : i < s.cfg.inCap) (v : Byte) :
    Inv (writeIn i v s) := by
  obtain ⟨hcfg, hlen, hfreq, hnodes, htable, hphase, herr, hrange, hin, hbound, hout⟩ := h
  refine ⟨hcfg, hlen, hfreq, hnodes, htable, hphase, herr, hrange, Memory.write_wf hin i v, ?_, hout⟩
  intro c hc
  rcases (Memory.mem_keys_write s.inBuf i v c.1).1 (List.mem_map_of_mem hc) with hci | hold
  · rw [hci]
    exact hi
  · obtain ⟨d, hd, hdc⟩ := List.mem_map.1 hold
    rw [← hdc]
    exact hbound d hd

theorem Inv.after_writeFreq {s : State} (h : Inv s) {f : Table Word} (hf : freqTotal f ≤ s.cfg.inCap) :
    Inv (writeFreq f (BitVec.ofNat 32 (symbolCount f)) s) := by
  obtain ⟨hcfg, hlen, -, hrest⟩ := h
  exact ⟨hcfg, hlen, ⟨toNat_ofNat_word ((symbolCount_le f).trans_lt (by decide)), hf⟩, hrest⟩

theorem Inv.after_writeTree {s : State} (h : Inv s) {ns : List Node} (hns : TreeOk ns) :
    Inv (writeTree ns (BitVec.ofNat 32 ns.length) (BitVec.ofNat 32 (ns.length - 1)) s) := by
  obtain ⟨hcfg, hlen, hfreq, -, hrest⟩ := h
  have hlt := hns.length_lt
  exact ⟨hcfg, hlen, hfreq, ⟨hns, toNat_ofNat_word (by omega), toNat_ofNat_word (by omega)⟩, hrest⟩

theorem Inv.after_writeCode {s : State} (h : Inv s) {t : Table (Option Bits)} (ht : CodesOk t) :
    Inv (writeCode t s) := by
  obtain ⟨hcfg, hlen, hfreq, hnodes, -, -, hrest⟩ := h
  exact ⟨hcfg, hlen, hfreq, hnodes, ⟨ht, fun htv => nomatch htv⟩, fun _ => rfl, hrest⟩

theorem Inv.after_writeOut {s : State} (h : Inv s) {o : Produced} (ho : ProducedOk s.cfg o) :
    Inv (writeOut o.bytes (BitVec.ofNat 32 o.bitLen) (BitVec.ofNat 32 o.pad) s) := by
  obtain ⟨hcfg, ⟨hinLen, -⟩, hfreq, hnodes, htable, hphase, herr, -, hin, hbound, -⟩ := h
  obtain ⟨hbytes, hbits, hpad⟩ := ho
  obtain ⟨-, -, -, hcap⟩ := config_wf_iff.1 hcfg
  have hlen : (BitVec.ofNat 32 o.bytes.length).toNat = o.bytes.length := toNat_ofNat_word (by omega)
  refine ⟨hcfg, ⟨hinLen, hlen.trans_le hbytes⟩, hfreq, hnodes, htable, hphase, herr, ⟨?_, ?_⟩, hin, hbound,
    Memory.ofBytes_wf o.bytes, ?_⟩
  · exact (toNat_ofNat_word (by omega)).trans_le hbits
  · exact (toNat_ofNat_word (by omega)).trans_le hpad
  · rw [writeOut_outBuf, writeOut_outLen, hlen, Memory.keys_ofBytes]

theorem Inv.after_dropOut {s : State} (h : Inv s) : Inv (dropOut s) := by
  obtain ⟨hcfg, ⟨hinLen, -⟩, hfreq, hnodes, htable, hphase, herr, hrange, hin, hbound, -⟩ := h
  exact ⟨hcfg, ⟨hinLen, Nat.zero_le _⟩, hfreq, hnodes, htable, hphase, herr, hrange, hin, hbound,
    Memory.empty_wf, rfl⟩

theorem Inv.after_succeed {s : State} (h : Inv s) : Inv (succeed s) := by
  obtain ⟨hcfg, hlen, hfreq, hnodes, htable, hphase, -, hrest⟩ := h
  exact ⟨hcfg, hlen, hfreq, hnodes, htable, hphase, ⟨fun _ => rfl, fun _ => rfl⟩, hrest⟩

theorem Inv.after_errorEntry {s : State} (h : Inv s) {r : Raise} (hr : r.code ≠ .ok) : Inv (errorEntry r s) := by
  obtain ⟨hcfg, hlen, hfreq, hnodes, htable, hphase, -, hrest⟩ := h
  have herr : ErrOk (errorEntry r s) := ⟨by simp, fun hok => absurd hok hr⟩
  exact ⟨hcfg, hlen, hfreq, hnodes, htable, hphase, herr, hrest⟩

theorem Inv.after_errorEntryOut {s : State} (h : Inv s) {r : Raise} (hr : r.code ≠ .ok) : Inv (errorEntryOut r s) :=
  h.after_dropOut.after_errorEntry hr

theorem Inv.after_clearBlock {s : State} (h : Inv s) : Inv (clearBlock s) := by
  obtain ⟨hcfg, ⟨hinLen, -⟩, -, -, -, -, -, -, hin, hbound, -⟩ := h
  obtain ⟨-, ⟨-, hout⟩, hfreq, hnodes, htable, hphase, herr, hrange, -, -, hbuf⟩ := inv_resetWith hcfg
  exact ⟨hcfg, ⟨hinLen, hout⟩, hfreq, hnodes, htable, hphase, herr, hrange, hin, hbound, hbuf⟩

theorem Inv.after_resetBlock {s : State} (h : Inv s) : Inv (resetBlock s) := by
  obtain ⟨hcfg, -⟩ := h
  exact inv_resetWith hcfg

/-! The queue, the answer, the mark and the count of draws are not of the block. -/

theorem Inv.after_respond {s : State} (h : Inv s) (r : BusResponse) : Inv (respond r s) := h

theorem Inv.after_refuse {s : State} (h : Inv s) : Inv (refuse s) := h

theorem Inv.after_popHost {s : State} (h : Inv s) (rest : List HostEvent) : Inv (popHost rest s) := h

theorem Inv.after_withDraws {s : State} (h : Inv s) (n : Nat) : Inv { s with draws := n } := h

/-! ### Each stage of a command keeps the invariant -/

theorem Inv.after_trimStage {s : State} (h : Inv s) : Inv (trimStage s) := by
  refine h.after_setInLen ?_
  obtain ⟨-, ⟨hinLen, -⟩, -⟩ := h
  have hle := trim_length_le s.cfg.ws (inputBytes s)
  rw [toNat_ofNat_word (hle.trans_lt (inputBytes_length_lt s))]
  exact hle.trans ((inputBytes_length s).trans_le hinLen)

theorem Inv.after_analyzeStage {s : State} (h : Inv s) : Inv (analyzeStage s) := by
  have hfreq : freqTotal (analyze (inputBytes s)) ≤ s.cfg.inCap := by
    obtain ⟨-, ⟨hinLen, -⟩, -⟩ := h
    rw [freqTotal_analyze (inputBytes_length_lt s), inputBytes_length]
    exact hinLen
  exact (h.after_writeFreq hfreq).after_setPhase (by simp)

theorem Inv.after_buildStage {s : State} (h : Inv s) : Inv (buildStage s) := by
  have htree := h.after_writeTree (treeOk_buildNodes h.freqTotal_lt)
  rw [← buildRoot_eq h.freqTotal_lt] at htree
  exact htree.after_setPhase (by simp)

theorem Inv.after_deriveStage {s : State} (h : Inv s) : Inv (deriveStage s) := by
  have hcodes : CodesOk (derivedTable s) := by
    rw [derivedTable_eq h.nodesOk]
    exact h.nodesOk.1.codesOk_treeTable
  exact (h.after_writeCode hcodes).after_setPhase fun _ => rfl

theorem Inv.after_compressStages {s : State} (h : Inv s) : Inv (compressStages s) :=
  h.after_trimStage.after_analyzeStage.after_buildStage.after_deriveStage

theorem Inv.after_finishOut {s : State} (h : Inv s) {r : Except Raise Produced} {p : Phase}
    (hok : ∀ o, r = .ok o → ProducedOk s.cfg o) (herr : ∀ e, r = .error e → e.code ≠ .ok)
    (hp : p = .tableReady ∨ p = .packed → s.tv = true) : Inv (finishOut r p s) := by
  obtain ⟨o, hr, hfin⟩ | ⟨e, hr, hfin⟩ := finishOut_cases r p s
  · rw [hfin]
    exact ((h.after_writeOut (hok o hr)).after_setPhase hp).after_succeed
  · rw [hfin]
    exact h.after_errorEntryOut (herr e hr)

theorem Inv.after_finishPack {s : State} (h : Inv s) (htv : s.tv = true) :
    Inv (finishOut (packProduce s) .packed s) :=
  h.after_finishOut (fun _ => packProduce_producedOk h.codesOk h.inLen_le) (fun _ => packProduce_error) fun _ => htv

theorem Inv.after_finishUnpack {s : State} (h : Inv s) : Inv (finishOut (unpackProduce s) .unpacked s) :=
  h.after_finishOut (fun _ => unpackProduce_producedOk h.inLen_le) (fun _ => unpackProduce_error) (by simp)

/-! ### Every command and every step keeps the invariant -/

theorem Inv.after_exec {i : Instr} {s t : State} (h : Inv s) (he : exec i s = .next t) : Inv t := by
  obtain ⟨-, ht⟩ | ⟨-, ht⟩ | ⟨-, -, ht⟩ | ⟨-, -, ht⟩ | ⟨-, -, ht⟩ | ⟨-, -, ht⟩ | ⟨-, hp, ht⟩ | ⟨-, -, ht⟩ | ⟨-, ht⟩ |
    ⟨-, -, ht⟩ | ⟨-, -, ht⟩ | ⟨-, ht⟩ := exec_cases he
  all_goals
    injection ht with ht
    subst ht
  · exact h.after_trimStage.after_succeed
  · exact h.after_analyzeStage.after_succeed
  · exact h.after_buildStage.after_succeed
  · exact h.after_errorEntry (sequenceRaise_code s)
  · exact h.after_deriveStage.after_succeed
  · exact h.after_errorEntry (sequenceRaise_code s)
  · exact h.after_finishPack (h.phaseOk (.inl hp))
  · exact h.after_errorEntryOut (sequenceRaise_code s)
  · exact h.after_compressStages.after_finishPack rfl
  · exact h.after_finishUnpack
  · exact h.after_errorEntryOut (by simp)
  · exact h.after_clearBlock

theorem Inv.after_serveRead {s : State} (h : Inv s) (off : Nat) (w : Width) : Inv (serveRead off w s) := by
  obtain ⟨d, hs⟩ | ⟨v, hs⟩ | hs := serveRead_cases off w s
  · rw [hs]; exact h.after_respond _
  · rw [hs]; exact (h.after_withDraws _).after_respond _
  · rw [hs]; exact h.after_refuse

theorem Inv.after_serveWrite {s : State} (h : Inv s) (off : Nat) (d : BusData) : Inv (serveWrite off d s) := by
  obtain ⟨v, -, -, hv, hs⟩ | ⟨i, v, -, hi, hs⟩ | hs := serveWrite_cases off d s
  · rw [hs]; exact (h.after_setInLen hv).after_respond _
  · rw [hs]; exact (h.after_writeIn (inIndex_lt hi).1 v).after_respond _
  · rw [hs]; exact h.after_refuse

theorem Inv.after_serveEvent {s : State} (h : Inv s) (e : HostEvent) : Inv (serveEvent e s) := by
  cases e with
  | read off w => exact h.after_serveRead off w
  | write off d => exact h.after_serveWrite off d
  | reset => exact h.after_resetBlock

theorem Inv.after_step {s t : State} (h : Inv s) (hs : step s = .next t) : Inv t := by
  obtain ⟨-, ht⟩ | ⟨w, rest, i, -, -, ht⟩ | ⟨w, rest, -, -, ht⟩ | ⟨e, rest, -, -, ht⟩ := step_cases hs
  · injection ht with ht
    exact ht ▸ h
  · exact ((h.after_popHost rest).after_respond .done).after_exec ht.symm
  · injection ht with ht
    exact ht ▸ ((h.after_popHost rest).after_respond .done).after_errorEntry (by simp)
  · injection ht with ht
    exact ht ▸ (h.after_popHost rest).after_serveEvent e

/-- Settles O7: each shared operation keeps `Inv`, every command is a chain of them, and every step a command or a
host access. -/
theorem everyStepKeepsTheInvariant : Obligations.EveryStepKeepsTheInvariant := by
  unfold Obligations.EveryStepKeepsTheInvariant
  exact fun s t h hs => h.after_step hs

end Sys2Proof.Machine

/-! ## Reset, the status words, and what every command records and leaves alone -/

namespace Sys2Proof.Machine

open Sys2Proof

/-! ### Reset -/

/-- An event that issues no command is served in one step. -/
theorem step_event {s : State} {e : HostEvent} {rest : List HostEvent} (hs : s.host = e :: rest)
    (he : commandWordOf e = none) : step s = .next (serveEvent e (popHost rest s)) := by
  simp only [step, hs, he]

theorem nodeEntry_resetWith (c : Config) (k : Nat) : nodeEntry (State.resetWith c) k = none := by
  simp [nodeEntry, State.resetWith]

theorem statusWord_resetWith (c : Config) : statusWord (State.resetWith c) = 0#32 := by
  have hzero : phaseInfo .idle ||| flagBit false 4 ||| flagBit false 5 = 0#32 := by decide
  exact hzero

/-- Settles O5: the reset record holds each listed value, and a reset event clears the block to it. -/
theorem resetGivesTheListedValues : Obligations.ResetGivesTheListedValues := by
  unfold Obligations.ResetGivesTheListedValues
  refine ⟨fun c => ?_, fun s rest hs => step_event hs rfl⟩
  exact ⟨statusWord_resetWith c, rfl, rfl, rfl, rfl, rfl, rfl, rfl, rfl, rfl, rfl, fun x => entry_replicate _ x,
    nodeEntry_resetWith c, fun x => entry_replicate _ x, rfl, rfl⟩

/-! ### The fields of STATUS and ERR -/

/-- A 4-bit code and two flags at bits 4 and 5 do not overlap, and leave the bits above 0. -/
theorem fields_of_statusWord : ∀ (p : BitVec 4) (tv sticky : Bool),
    (p.setWidth 32 ||| flagBit tv 4 ||| flagBit sticky 5).extractLsb' 0 4 = p ∧
    (p.setWidth 32 ||| flagBit tv 4 ||| flagBit sticky 5).getLsbD 4 = tv ∧
    (p.setWidth 32 ||| flagBit tv 4 ||| flagBit sticky 5).getLsbD 5 = sticky ∧
    (p.setWidth 32 ||| flagBit tv 4 ||| flagBit sticky 5).extractLsb' 6 26 = 0#26 := by
  decide

/-- Settles O12: the fields stand apart in the word, and each name has its tabled code. -/
theorem statusAndErrFieldsStandAtTheirBits : Obligations.StatusAndErrFieldsStandAtTheirBits := by
  unfold Obligations.StatusAndErrFieldsStandAtTheirBits
  constructor
  · intro s
    obtain ⟨hphase, htv, hsticky, hzero⟩ := fields_of_statusWord s.phase.code s.tv s.sticky
    refine ⟨?_, htv, hsticky, hzero⟩
    rw [statusWord, phaseInfo, hphase]
    cases s.phase <;> rfl
  · intro s
    rw [errWord]
    cases s.err <;> rfl

/-! ### What every command records -/

/-- No command reads ERR or ERRINFO: each arm tests the phase or TV at most, and ends in a write of both. -/
theorem exec_overwrites_err (i : Instr) (s : State) (e : ErrCode) (n : Word) :
    exec i { s with err := e, errInfo := n } = exec i s := by
  cases i <;> rfl

/-- The rules over all commands about what the command `i` leaves of a state: IN, the constants and the host's side;
IN_LEN, which TRIM and COMPRESS may lower; CODE and TV for the five commands that retain the table (10_state.md R26, R33,
R39, 45_facade.md R224). -/
structure CommandFrame (i : Instr) (s t : State) : Prop where
  cfg : t.cfg = s.cfg
  inBuf : t.inBuf = s.inBuf
  host : t.host = s.host
  resp : t.resp = s.resp
  hostRefused : t.hostRefused = s.hostRefused
  epoch : t.epoch = s.epoch
  draws : t.draws = s.draws
  inLen : i ≠ .trim → i ≠ .compress → t.inLen = s.inLen
  inLen_le : t.inLen.toNat ≤ s.inLen.toNat
  table : i ∈ [Instr.trim, .analyze, .build, .pack, .decompress] → t.code = s.code ∧ t.tv = s.tv

theorem CommandFrame.refl (i : Instr) (s : State) : CommandFrame i s s :=
  ⟨rfl, rfl, rfl, rfl, rfl, rfl, rfl, fun _ _ => rfl, Nat.le_refl _, fun _ => ⟨rfl, rfl⟩⟩

theorem trimStage_inLen_le (s : State) : (trimStage s).inLen.toNat ≤ s.inLen.toNat := by
  have hle := trim_length_le s.cfg.ws (inputBytes s)
  rw [trimStage, setInLen_inLen, toNat_ofNat_word (hle.trans_lt (inputBytes_length_lt s))]
  exact hle.trans_eq (inputBytes_length s)

theorem CommandFrame.trans {i : Instr} {s t u : State} (h : CommandFrame i s t) (h' : CommandFrame i t u) :
    CommandFrame i s u where
  cfg := h'.cfg.trans h.cfg
  inBuf := h'.inBuf.trans h.inBuf
  host := h'.host.trans h.host
  resp := h'.resp.trans h.resp
  hostRefused := h'.hostRefused.trans h.hostRefused
  epoch := h'.epoch.trans h.epoch
  draws := h'.draws.trans h.draws
  inLen ht hc := (h'.inLen ht hc).trans (h.inLen ht hc)
  inLen_le := h'.inLen_le.trans h.inLen_le
  table hi := ⟨(h'.table hi).1.trans (h.table hi).1, (h'.table hi).2.trans (h.table hi).2⟩

theorem commandFrame_trimStage {i : Instr} (hi : i = .trim ∨ i = .compress) (s : State) :
    CommandFrame i s (trimStage s) :=
  ⟨rfl, rfl, rfl, rfl, rfl, rfl, rfl, fun ht hc => (hi.elim ht hc).elim, trimStage_inLen_le s, fun _ => ⟨rfl, rfl⟩⟩

theorem commandFrame_analyzeStage (i : Instr) (s : State) : CommandFrame i s (analyzeStage s) :=
  ⟨rfl, rfl, rfl, rfl, rfl, rfl, rfl, fun _ _ => rfl, Nat.le_refl _, fun _ => ⟨rfl, rfl⟩⟩

theorem commandFrame_buildStage (i : Instr) (s : State) : CommandFrame i s (buildStage s) :=
  ⟨rfl, rfl, rfl, rfl, rfl, rfl, rfl, fun _ _ => rfl, Nat.le_refl _, fun _ => ⟨rfl, rfl⟩⟩

theorem commandFrame_deriveStage {i : Instr} (hi : i ∉ [Instr.trim, .analyze, .build, .pack, .decompress])
    (s : State) : CommandFrame i s (deriveStage s) :=
  ⟨rfl, rfl, rfl, rfl, rfl, rfl, rfl, fun _ _ => rfl, Nat.le_refl _, fun h => absurd h hi⟩

theorem commandFrame_compressStages (s : State) : CommandFrame .compress s (compressStages s) :=
  (commandFrame_trimStage (.inr rfl) s).trans <| (commandFrame_analyzeStage _ _).trans <|
    (commandFrame_buildStage _ _).trans <| commandFrame_deriveStage (by decide) _

theorem compressStages_sticky (s : State) : (compressStages s).sticky = s.sticky := by
  simp [compressStages, deriveStage, buildStage, analyzeStage, trimStage]

theorem commandFrame_clearBlock (s : State) : CommandFrame .clear s (clearBlock s) :=
  ⟨rfl, rfl, rfl, rfl, rfl, rfl, rfl, fun _ _ => rfl, Nat.le_refl _, by simp⟩

/-- The result registers, the phase and the error state are outside the frame. -/
theorem CommandFrame.congr {i : Instr} {s u : State} (h : CommandFrame i s u) (p : Phase) (sticky : Bool) (e : ErrCode)
    (info outLen bitLen pad : Word) (outBuf : Memory) :
    CommandFrame i s { u with
      phase := p, sticky := sticky, err := e, errInfo := info, outLen := outLen, bitLen := bitLen, pad := pad,
      outBuf := outBuf } :=
  ⟨h.cfg, h.inBuf, h.host, h.resp, h.hostRefused, h.epoch, h.draws, h.inLen, h.inLen_le, h.table⟩

theorem CommandFrame.after_writeOut {i : Instr} {s u : State} (h : CommandFrame i s u) (p : Phase) (bs : List Byte)
    (bits pad : Word) : CommandFrame i s (setPhase p (writeOut bs bits pad u)) :=
  h.congr p _ _ _ _ bits pad _

/-- How a command other than CLEAR ends: its work leaves STICKY, and then success or an error is recorded. -/
structure EndsFrom (i : Instr) (s t : State) : Prop where
  frame : CommandFrame i s t
  recorded : ∃ u, u.sticky = s.sticky ∧ (t = succeed u ∨ ∃ r : Raise, r.code ≠ .ok ∧ t = errorEntry r u)

theorem CommandFrame.endsFrom_succeed {i : Instr} {s u : State} (h : CommandFrame i s u) (hu : u.sticky = s.sticky) :
    EndsFrom i s (succeed u) :=
  ⟨h.congr _ _ _ _ _ _ _ _, u, hu, .inl rfl⟩

theorem CommandFrame.endsFrom_errorEntry {i : Instr} {s u : State} (h : CommandFrame i s u)
    (hu : u.sticky = s.sticky) {r : Raise} (hr : r.code ≠ .ok) : EndsFrom i s (errorEntry r u) :=
  ⟨h.congr _ _ _ _ _ _ _ _, u, hu, .inr ⟨r, hr, rfl⟩⟩

theorem CommandFrame.endsFrom_errorEntryOut {i : Instr} {s u : State} (h : CommandFrame i s u)
    (hu : u.sticky = s.sticky) {r : Raise} (hr : r.code ≠ .ok) : EndsFrom i s (errorEntryOut r u) :=
  ⟨h.congr _ _ _ _ _ _ _ _, dropOut u, hu, .inr ⟨r, hr, rfl⟩⟩

theorem CommandFrame.endsFrom_finishOut {i : Instr} {s u : State} (h : CommandFrame i s u) (hu : u.sticky = s.sticky)
    {r : Except Raise Produced} (p : Phase) (hr : ∀ e, r = .error e → e.code ≠ .ok) :
    EndsFrom i s (finishOut r p u) := by
  obtain ⟨o, -, hfin⟩ | ⟨e, he, hfin⟩ := finishOut_cases r p u
  · rw [hfin]
    exact (h.after_writeOut p o.bytes _ _).endsFrom_succeed hu
  · rw [hfin]
    exact h.endsFrom_errorEntryOut hu (hr e he)

theorem exec_endsFrom {i : Instr} {s t : State} (h : exec i s = .next t) (hi : i ≠ .clear) : EndsFrom i s t := by
  have hs := CommandFrame.refl i s
  obtain ⟨rfl, ht⟩ | ⟨rfl, ht⟩ | ⟨rfl, -, ht⟩ | ⟨-, -, ht⟩ | ⟨rfl, -, ht⟩ | ⟨-, -, ht⟩ | ⟨-, -, ht⟩ | ⟨-, -, ht⟩ |
    ⟨rfl, ht⟩ | ⟨-, -, ht⟩ | ⟨-, -, ht⟩ | ⟨hc, ht⟩ := exec_cases h
  all_goals
    injection ht with ht
    subst ht
  · exact (commandFrame_trimStage (.inl rfl) s).endsFrom_succeed rfl
  · exact (commandFrame_analyzeStage _ s).endsFrom_succeed rfl
  · exact (commandFrame_buildStage _ s).endsFrom_succeed rfl
  · exact hs.endsFrom_errorEntry rfl (sequenceRaise_code s)
  · exact (commandFrame_deriveStage (by decide) s).endsFrom_succeed rfl
  · exact hs.endsFrom_errorEntry rfl (sequenceRaise_code s)
  · exact hs.endsFrom_finishOut rfl _ fun _ => packProduce_error
  · exact hs.endsFrom_errorEntryOut rfl (sequenceRaise_code s)
  · exact (commandFrame_compressStages s).endsFrom_finishOut (compressStages_sticky s) _ fun _ => packProduce_error
  · exact hs.endsFrom_finishOut rfl _ fun _ => unpackProduce_error
  · exact hs.endsFrom_errorEntryOut rfl (by simp)
  · exact absurd hc hi

/-- STICKY collects a failure and a success keeps it (10_state.md R24). -/
theorem EndsFrom.sticky_iff {i : Instr} {s t : State} (h : EndsFrom i s t) :
    t.sticky = true ↔ s.sticky = true ∨ t.err ≠ .ok := by
  obtain ⟨-, u, hu, rfl | ⟨r, hr, rfl⟩⟩ := h
  · simp [hu]
  · simp [hr]

/-- A success leaves 0 in ERRINFO (10_state.md R25). -/
theorem EndsFrom.errInfo_eq {i : Instr} {s t : State} (h : EndsFrom i s t) (ht : t.err = .ok) : t.errInfo = 0#32 := by
  obtain ⟨-, u, -, rfl | ⟨r, hr, rfl⟩⟩ := h
  · rfl
  · exact absurd ht hr

theorem exec_clear_eq {s t : State} (h : exec .clear s = .next t) : t = clearBlock s := by
  rw [exec_clear] at h
  injection h with h
  exact h.symm

/-- Settles O58: no command reads ERR, and every one but CLEAR ends by `succeed` or by an error entry. -/
theorem errAndStickyRecordTheOutcome : Obligations.ErrAndStickyRecordTheOutcome := by
  unfold Obligations.ErrAndStickyRecordTheOutcome
  refine ⟨exec_overwrites_err, fun i s t h => ?_⟩
  by_cases hi : i = .clear
  · subst hi
    simp [exec_clear_eq h]
  · have hend := exec_endsFrom h hi
    exact ⟨hend.errInfo_eq, fun _ => hend.sticky_iff, fun hc => absurd hc hi⟩

/-! ### What no command writes -/

theorem exec_frame {i : Instr} {s t : State} (h : exec i s = .next t) : CommandFrame i s t := by
  by_cases hi : i = .clear
  · subst hi
    rw [exec_clear_eq h]
    exact commandFrame_clearBlock s
  · exact (exec_endsFrom h hi).frame

theorem CommandFrame.inByte_eq {i : Instr} {s t : State} (h : CommandFrame i s t) (j : Nat) :
    inByte t j = inByte s j := by
  rw [inByte, inByte, h.inBuf, h.epoch]

/-! ### The constants along every step -/

theorem serveEvent_cfg (e : HostEvent) (s : State) : (serveEvent e s).cfg = s.cfg := by
  cases e with
  | read off w =>
    obtain ⟨d, hs⟩ | ⟨v, hs⟩ | hs := serveRead_cases off w s
    all_goals rw [serveEvent, hs]; rfl
  | write off d =>
    obtain ⟨v, -, -, -, hs⟩ | ⟨i, v, -, -, hs⟩ | hs := serveWrite_cases off d s
    all_goals rw [serveEvent, hs]; rfl
  | reset => rfl

theorem step_cfg {s t : State} (h : step s = .next t) : t.cfg = s.cfg := by
  obtain ⟨-, ht⟩ | ⟨w, rest, i, -, -, ht⟩ | ⟨w, rest, -, -, ht⟩ | ⟨e, rest, -, -, ht⟩ := step_cases h
  · injection ht with ht
    rw [ht]
  · exact (exec_frame ht.symm).cfg
  · injection ht with ht
    rw [ht]
    rfl
  · injection ht with ht
    rw [ht]
    exact serveEvent_cfg e _

/-- Settles O60: the frame of every command, and the constants along every step. -/
theorem commandsLeaveInConstantsAndTheRetainedTableAlone :
    Obligations.CommandsLeaveInConstantsAndTheRetainedTableAlone := by
  unfold Obligations.CommandsLeaveInConstantsAndTheRetainedTableAlone
  refine ⟨fun i s t h => ?_, fun s t => step_cfg⟩
  have hframe := exec_frame h
  exact ⟨hframe.inByte_eq, hframe.inBuf, hframe.cfg, hframe.host, hframe.resp, hframe.hostRefused, hframe.epoch,
    hframe.draws, hframe.inLen, hframe.inLen_le, hframe.table⟩

end Sys2Proof.Machine

/-! ## The host window: what is accepted, what is refused, and what an access changes (20_memory.md) -/

namespace Sys2Proof.Machine

open Sys2Proof

/-! ### The places of the address map (20_memory.md R61) -/

theorem registerWord_isSome (s : State) {off : Nat} (h4 : off % 4 = 0) (h : off < 0x38) :
    (registerWord s off).isSome = true := by
  obtain ⟨k, rfl⟩ := Nat.dvd_of_mod_eq_zero h4
  have hk : k < 14 := by omega
  interval_cases k <;> rfl

/-- A word is read exactly at the aligned offsets of the word ranges. -/
theorem readWord_eq_none_iff (s : State) (off : Nat) :
    readWord s off = none ↔ ¬ (InWordRange off ∧ off % 4 = 0) := by
  unfold readWord
  by_cases h4 : off % 4 = 0
  · rw [if_pos h4, windowWord]
    by_cases hreg : off < 0x38
    · have hsome := Option.ne_none_iff_isSome.2 (registerWord_isSome s h4 hreg)
      simp only [if_pos hreg, hsome, false_iff, not_not]
      omega
    · rw [if_neg hreg]
      split_ifs
      all_goals
        simp only [true_iff, false_iff]
        simp only [freqBase, nodeBase, codeBase] at *
        omega
  · simp [h4]

theorem inIndex_eq_none_iff (c : Config) (off : Nat) : inIndex c off = none ↔ ¬ InInRange c off := by
  rw [inIndex]
  split_ifs with h
  all_goals
    simp only [true_iff, false_iff]
    simp only [inBase] at h
    omega

theorem outIndex_eq_none_iff (c : Config) (off : Nat) : outIndex c off = none ↔ ¬ InOutRange c off := by
  rw [outIndex]
  split_ifs with h
  all_goals
    simp only [true_iff, false_iff]
    simp only [outBase] at h
    omega

theorem inIndex_inBase_add {c : Config} {i : Nat} (h : i < c.inCap) : inIndex c (inBase + i) = some i := by
  rw [inIndex, if_pos (by omega), Nat.add_sub_cancel_left]

theorem outIndex_outBase_add {c : Config} {i : Nat} (h : i < c.outCap) : outIndex c (outBase + i) = some i := by
  rw [outIndex, if_pos (by omega), Nat.add_sub_cancel_left]

/-- Within the constraints of 00_scope.md R6 the IN window ends below the OUT window. -/
theorem inIndex_eq_none_of_outBase_le {c : Config} (hc : c.wf = true) {off : Nat} (h : outBase ≤ off) :
    inIndex c off = none := by
  obtain ⟨-, hin, -⟩ := config_wf_iff.1 hc
  rw [inIndex_eq_none_iff]
  simp only [outBase] at h
  omega

/-! ### What 20_memory.md R69 refuses, by the width of the access -/

theorem refusedPlace_word_iff (c : Config) (off : Nat) :
    RefusedPlace c off .word ↔ ¬ (InWordRange off ∧ off % 4 = 0) := by
  simp only [RefusedPlace, ne_eq, not_true_eq_false, and_false, reduceCtorEq, not_false_eq_true, and_true,
    true_and, false_or]
  omega

theorem refusedPlace_half (c : Config) (off : Nat) : RefusedPlace c off .half := by
  simp only [RefusedPlace, ne_eq, reduceCtorEq, not_false_eq_true, and_true, false_and, false_or]
  tauto

theorem refusedPlace_byte_iff (c : Config) (off : Nat) :
    RefusedPlace c off .byte ↔ ¬ InInRange c off ∧ ¬ InOutRange c off := by
  simp only [RefusedPlace, ne_eq, reduceCtorEq, not_true_eq_false, not_false_eq_true, and_true, and_false,
    false_and, false_or, or_false]
  omega

theorem refusedAccess_write_word_iff (c : Config) (off : Nat) (v : Word) :
    RefusedAccess c (.write off (.word v)) ↔
      off ≠ cmdOffset ∧ ¬ (off = inLenOffset ∧ v.toNat ≤ c.inCap) := by
  simp only [RefusedAccess, BusData.width, refusedPlace_word_iff, RefusedInLen, BusData.word.injEq, exists_eq_left',
    cmdOffset, inLenOffset]
  omega

theorem refusedAccess_write_byte_iff {c : Config} (hc : c.wf = true) (off : Nat) (v : Byte) :
    RefusedAccess c (.write off (.byte v)) ↔ inIndex c off = none := by
  obtain ⟨-, hin, -⟩ := config_wf_iff.1 hc
  simp only [RefusedAccess, BusData.width, refusedPlace_byte_iff, RefusedInLen, reduceCtorEq, false_and, exists_false,
    and_false, or_false, inIndex_eq_none_iff]
  omega

/-! ### Serving a read -/

theorem serveRead_word_of_some {s : State} {off : Nat} {v : Word} (h : readWord s off = some v) :
    serveRead off .word s = respond (.data (.word v)) s := by
  simp only [serveRead, h]

theorem serveRead_byte_of_inIndex {s : State} {off i : Nat} (h : inIndex s.cfg off = some i) :
    serveRead off .byte s = respond (.data (.byte (inByte s i))) s := by
  simp only [serveRead, h]

theorem serveRead_byte_of_outIndex {s : State} {off i : Nat} (hin : inIndex s.cfg off = none)
    (hout : outIndex s.cfg off = some i) : serveRead off .byte s = readOut i s := by
  simp only [serveRead, hin, hout]

theorem readOut_of_some {s : State} {i : Nat} {v : Byte} (h : outByte s i = some v) :
    readOut i s = respond (.data (.byte v)) s := by
  simp only [readOut, h]

theorem readOut_of_none {s : State} {i : Nat} (h : outByte s i = none) :
    readOut i s = respond (.data (.byte (Config.outUnspecified s.draws))) { s with draws := s.draws + 1 } := by
  simp only [readOut, h]

theorem serveRead_of_refusedPlace {s : State} {off : Nat} {w : Width} (h : RefusedPlace s.cfg off w) :
    serveRead off w s = refuse s := by
  cases w with
  | word =>
    have hnone : readWord s off = none := (readWord_eq_none_iff s off).2 ((refusedPlace_word_iff _ off).1 h)
    simp only [serveRead, hnone]
  | half => rfl
  | byte =>
    obtain ⟨hin, hout⟩ := (refusedPlace_byte_iff _ off).1 h
    simp only [serveRead, (inIndex_eq_none_iff _ off).2 hin, (outIndex_eq_none_iff _ off).2 hout]

/-- An accepted read answers data of its width, and only an unspecified byte of OUT counts a draw. -/
theorem serveRead_of_not_refusedPlace {s : State} {off : Nat} {w : Width} (h : ¬ RefusedPlace s.cfg off w) :
    (∃ d : BusData, d.width = w ∧ serveRead off w s = respond (.data d) s) ∨
    (∃ i, w = .byte ∧ outIndex s.cfg off = some i ∧ outByte s i = none ∧
      serveRead off w s =
        respond (.data (.byte (Config.outUnspecified s.draws))) { s with draws := s.draws + 1 }) := by
  cases w with
  | word =>
    rw [refusedPlace_word_iff, ← readWord_eq_none_iff s off] at h
    obtain ⟨v, hv⟩ := Option.ne_none_iff_exists'.1 h
    exact .inl ⟨.word v, rfl, serveRead_word_of_some hv⟩
  | half => exact absurd (refusedPlace_half _ off) h
  | byte =>
    rw [refusedPlace_byte_iff, ← inIndex_eq_none_iff, ← outIndex_eq_none_iff] at h
    cases hin : inIndex s.cfg off with
    | some i => exact .inl ⟨.byte (inByte s i), rfl, serveRead_byte_of_inIndex hin⟩
    | none =>
      obtain ⟨i, hout⟩ := Option.ne_none_iff_exists'.1 fun hnone => h ⟨hin, hnone⟩
      rw [serveRead_byte_of_outIndex hin hout]
      cases hbyte : outByte s i with
      | some v => exact .inl ⟨.byte v, rfl, readOut_of_some hbyte⟩
      | none => exact .inr ⟨i, rfl, hout, hbyte, readOut_of_none hbyte⟩

/-! ### Serving a write -/

/-- Only a word written to CMD issues a command (10_state.md R23). -/
theorem commandWordOf_write {off : Nat} {d : BusData} (h : off ≠ cmdOffset ∨ d.width ≠ .word) :
    commandWordOf (.write off d) = none := by
  cases d with
  | word v => exact if_neg (h.resolve_right (not_not_intro rfl))
  | half v => rfl
  | byte v => rfl

theorem serveWrite_byte_of_inIndex {s : State} {off i : Nat} {v : Byte} (h : inIndex s.cfg off = some i) :
    serveWrite off (.byte v) s = respond .done (writeIn i v s) := by
  simp only [serveWrite, h]

theorem serveWrite_inLen {s : State} {v : Word} (h : v.toNat ≤ s.cfg.inCap) :
    serveWrite inLenOffset (.word v) s = respond .done (setInLen v s) := if_pos ⟨rfl, h⟩

theorem serveWrite_word_of_not {s : State} {off : Nat} {v : Word}
    (h : ¬ (off = inLenOffset ∧ v.toNat ≤ s.cfg.inCap)) : serveWrite off (.word v) s = refuse s := if_neg h

theorem serveWrite_of_refusedAccess {s : State} {off : Nat} {d : BusData} (hc : s.cfg.wf = true)
    (h : RefusedAccess s.cfg (.write off d)) : serveWrite off d s = refuse s := by
  cases d with
  | word v => exact serveWrite_word_of_not ((refusedAccess_write_word_iff _ off v).1 h).2
  | half v => rfl
  | byte v => simp only [serveWrite, (refusedAccess_write_byte_iff hc off v).1 h]

/-- A write that R69 accepts and that issues no command is completed. -/
theorem serveWrite_of_not_refusedAccess {s : State} {off : Nat} {d : BusData} (hc : s.cfg.wf = true)
    (h : ¬ RefusedAccess s.cfg (.write off d)) (hcmd : commandWordOf (.write off d) = none) :
    (serveWrite off d s).resp = .done ∧ (serveWrite off d s).hostRefused = s.hostRefused := by
  cases d with
  | word v =>
    have hoff : off ≠ cmdOffset := by simpa [commandWordOf] using hcmd
    have hlen : off = inLenOffset ∧ v.toNat ≤ s.cfg.inCap := by
      by_contra hnot
      exact h ((refusedAccess_write_word_iff _ off v).2 ⟨hoff, hnot⟩)
    obtain ⟨rfl, hv⟩ := hlen
    rw [serveWrite_inLen hv]
    exact ⟨rfl, rfl⟩
  | half v => exact absurd (.inl (refusedPlace_half _ off)) h
  | byte v =>
    rw [refusedAccess_write_byte_iff hc] at h
    obtain ⟨i, hi⟩ := Option.ne_none_iff_exists'.1 h
    rw [serveWrite_byte_of_inIndex hi]
    exact ⟨rfl, rfl⟩

/-- A write that issues no command changes nothing but IN_LEN and IN, beside the bus's answer and the mark. -/
theorem serveWrite_frame (off : Nat) (d : BusData) (s : State) :
    serveWrite off d s = { s with
      resp := (serveWrite off d s).resp, hostRefused := (serveWrite off d s).hostRefused,
      inLen := (serveWrite off d s).inLen, inBuf := (serveWrite off d s).inBuf } := by
  obtain ⟨v, -, -, -, hs⟩ | ⟨i, v, -, -, hs⟩ | hs := serveWrite_cases off d s
  all_goals rw [hs]; rfl

theorem serveWrite_inBuf {s : State} {off : Nat} {d : BusData} (h : d.width ≠ .byte ∨ inIndex s.cfg off = none) :
    (serveWrite off d s).inBuf = s.inBuf := by
  obtain ⟨v, -, -, -, hs⟩ | ⟨i, v, rfl, hi, -⟩ | hs := serveWrite_cases off d s
  · rw [hs]; rfl
  · simp [BusData.width, hi] at h
  · rw [hs]; rfl

theorem serveWrite_inLen_ne {s : State} {off : Nat} {d : BusData} (h : (serveWrite off d s).inLen ≠ s.inLen) :
    ∃ v, d = .word v ∧ off = inLenOffset ∧ v.toNat ≤ s.cfg.inCap ∧ (serveWrite off d s).inLen = v := by
  obtain ⟨v, hd, hoff, hv, hs⟩ | ⟨i, v, -, -, hs⟩ | hs := serveWrite_cases off d s
  · exact ⟨v, hd, hoff, hv, by rw [hs]; rfl⟩
  · exact absurd (by rw [hs]; rfl) h
  · exact absurd (by rw [hs]; rfl) h

/-! ### Refused and accepted accesses -/

theorem commandWordOf_of_refusedAccess {c : Config} {e : HostEvent} (h : RefusedAccess c e) :
    commandWordOf e = none := by
  cases e with
  | read off w => rfl
  | reset => rfl
  | write off d =>
    cases d with
    | word v => exact commandWordOf_write (.inl ((refusedAccess_write_word_iff c off v).1 h).1)
    | half v => rfl
    | byte v => rfl

theorem serveEvent_of_refusedAccess {s : State} {e : HostEvent} (hc : s.cfg.wf = true)
    (h : RefusedAccess s.cfg e) : serveEvent e s = refuse s := by
  cases e with
  | read off w => exact serveRead_of_refusedPlace h
  | write off d => exact serveWrite_of_refusedAccess hc h
  | reset => exact h.elim

/-- Settles O9: a refused access issues no command, and serving it is `refuse`. -/
theorem refusedAccessChangesNothing : Obligations.RefusedAccessChangesNothing := by
  unfold Obligations.RefusedAccessChangesNothing
  intro s e rest hc hs h
  rw [step_event hs (commandWordOf_of_refusedAccess h), serveEvent_of_refusedAccess (s := popHost rest s) hc h]
  rfl

/-- Whatever word is written to CMD, it goes on with the bus's answer and the mark it had. -/
theorem runCommand_next (w : Word) (s : State) :
    ∃ t, runCommand w s = .next t ∧ t.hostRefused = s.hostRefused ∧ t.resp = s.resp := by
  unfold runCommand
  cases decode w with
  | none => exact ⟨_, rfl, rfl, rfl⟩
  | some i =>
    obtain ⟨t, ht⟩ := exec_next i s
    exact ⟨t, ht, (exec_frame ht).hostRefused, (exec_frame ht).resp⟩

theorem step_command {s : State} {e : HostEvent} {rest : List HostEvent} {w : Word} (hs : s.host = e :: rest)
    (he : commandWordOf e = some w) : step s = runCommand w (respond .done (popHost rest s)) := by
  simp only [step, hs, he]

/-- Settles O10: an accepted read answers data, and an accepted write is a command or is completed. -/
theorem acceptedAccessIsAnswered : Obligations.AcceptedAccessIsAnswered := by
  unfold Obligations.AcceptedAccessIsAnswered
  intro s e rest hc hs h hreset
  cases e with
  | reset => exact absurd rfl hreset
  | read off w =>
    refine ⟨_, step_event hs rfl, ?_⟩
    obtain ⟨d, hd, ht⟩ | ⟨i, rfl, -, -, ht⟩ := serveRead_of_not_refusedPlace (s := popHost rest s) h
    · rw [serveEvent, ht]
      exact ⟨rfl, by simp, fun _ _ he => ⟨d, by cases he; exact hd, rfl⟩⟩
    · rw [serveEvent, ht]
      exact ⟨rfl, by simp, fun _ _ he => ⟨_, by cases he; rfl, rfl⟩⟩
  | write off d =>
    cases hcmd : commandWordOf (.write off d) with
    | some w =>
      obtain ⟨t, ht, hmark, hresp⟩ := runCommand_next w (respond .done (popHost rest s))
      exact ⟨t, (step_command hs hcmd).trans ht, hmark, fun _ _ _ => hresp, by simp⟩
    | none =>
      obtain ⟨hresp, hmark⟩ := serveWrite_of_not_refusedAccess (s := popHost rest s) hc h hcmd
      exact ⟨_, step_event hs hcmd, hmark, fun _ _ _ => hresp, by simp⟩

/-! ### The windows -/

theorem readWord_freq (s : State) (k : Byte) : readWord s (freqBase + 4 * k.toNat) = some (entry s.freq k) := by
  have hk := k.isLt
  have hindex : (freqBase + 4 * k.toNat - freqBase) / 4 = k.toNat := by omega
  rw [readWord, if_pos (by simp only [freqBase]; omega), windowWord, if_neg (by simp only [freqBase]; omega),
    if_pos (by omega), hindex, BitVec.ofNat_toNat, BitVec.setWidth_eq]

/-- Settles O13: the offset lies in the FREQ window, and is neither that of CMD nor that of IN_LEN. -/
theorem freqWindowReadsTheCounts : Obligations.FreqWindowReadsTheCounts := by
  unfold Obligations.FreqWindowReadsTheCounts
  refine fun s rest k => ⟨fun hs => ?_, fun v hs => ?_⟩
  · have hread : readWord (popHost rest s) (0x0400 + 4 * k.toNat) = some (entry s.freq k) := readWord_freq _ k
    rw [step_event hs rfl, serveEvent, serveRead_word_of_some hread]
    rfl
  · have hcmd : 0x0400 + 4 * k.toNat ≠ cmdOffset := by simp only [cmdOffset]; omega
    have hlen : 0x0400 + 4 * k.toNat ≠ inLenOffset := by simp only [inLenOffset]; omega
    rw [step_event hs (commandWordOf_write (.inl hcmd)), serveEvent, serveWrite_word_of_not (fun h => hlen h.1)]
    rfl

/-- Settles O16: the offset is that of `IN[i]`, and a write of the buffer is read back at its own index only. -/
theorem inWindowReadsAndWritesTheBuffer : Obligations.InWindowReadsAndWritesTheBuffer := by
  unfold Obligations.InWindowReadsAndWritesTheBuffer
  intro s rest i hi
  have hindex : inIndex (popHost rest s).cfg (0x01000000 + i) = some i := inIndex_inBase_add hi
  refine ⟨fun hs => ?_, fun v hs => ?_⟩
  · rw [step_event hs rfl, serveEvent, serveRead_byte_of_inIndex hindex]
    rfl
  · rw [step_event hs rfl, serveEvent, serveWrite_byte_of_inIndex hindex]
    exact ⟨_, rfl, inByte_writeIn_same (popHost rest s) i v,
      fun j hj => inByte_writeIn_other (popHost rest s) v hj, rfl⟩

/-- Settles O17: the offset is that of `OUT[i]` and not in the IN window. -/
theorem outWindowReadsTheResultBytes : Obligations.OutWindowReadsTheResultBytes := by
  unfold Obligations.OutWindowReadsTheResultBytes
  intro s rest i hc hi hs
  have hin : inIndex (popHost rest s).cfg (0x08000000 + i) = none :=
    inIndex_eq_none_of_outBase_le hc (Nat.le_add_right outBase i)
  have hout : outIndex (popHost rest s).cfg (0x08000000 + i) = some i := outIndex_outBase_add hi
  rw [step_event hs rfl, serveEvent, serveRead_byte_of_outIndex hin hout]
  refine ⟨fun v hv => ?_, fun hnone => ?_⟩
  · rw [readOut_of_some (s := popHost rest s) hv]
    rfl
  · rw [readOut_of_none (s := popHost rest s) hnone]
    rfl

/-! ### No side effects, and the registers -/

/-- A read changes nothing but the bus's answer, the mark and the count of draws. -/
theorem serveRead_frame (off : Nat) (w : Width) (s : State) :
    serveRead off w s = { s with
      resp := (serveRead off w s).resp, hostRefused := (serveRead off w s).hostRefused,
      draws := (serveRead off w s).draws } := by
  obtain ⟨d, hs⟩ | ⟨v, hs⟩ | hs := serveRead_cases off w s
  all_goals rw [hs]; rfl

theorem serveRead_draws_ne {s : State} {off : Nat} {w : Width} (h : (serveRead off w s).draws ≠ s.draws) :
    (serveRead off w s).draws = s.draws + 1 ∧ w = .byte ∧
      ∃ i, outIndex s.cfg off = some i ∧ outByte s i = none := by
  by_cases hp : RefusedPlace s.cfg off w
  · exact absurd (by rw [serveRead_of_refusedPlace hp]; rfl) h
  · obtain ⟨d, -, hs⟩ | ⟨i, hw, hi, hbyte, hs⟩ := serveRead_of_not_refusedPlace hp
    · exact absurd (by rw [hs]; rfl) h
    · exact ⟨by rw [hs]; rfl, hw, i, hi, hbyte⟩

/-- Settles O18: the frames of serving a read and a write, with what a write stores. -/
theorem plainAccessesHaveNoSideEffect : Obligations.PlainAccessesHaveNoSideEffect := by
  unfold Obligations.PlainAccessesHaveNoSideEffect
  refine ⟨fun s rest off w hs => ?_, fun s rest off d hs h => ?_, fun s rest v hs hv => ?_⟩
  · exact ⟨_, step_event hs rfl, serveRead_frame off w (popHost rest s),
      serveRead_draws_ne (s := popHost rest s)⟩
  · refine ⟨_, step_event hs (commandWordOf_write h), serveWrite_frame off d (popHost rest s), ?_,
      serveWrite_inBuf (s := popHost rest s), serveWrite_inLen_ne (s := popHost rest s)⟩
    rintro v i rfl hi
    rw [serveEvent, serveWrite_byte_of_inIndex (s := popHost rest s) hi]
    exact ⟨inByte_writeIn_same (popHost rest s) i v, fun j hj => inByte_writeIn_other (popHost rest s) v hj⟩
  · have hcmd : inLenOffset ≠ cmdOffset := by decide
    rw [step_event hs (commandWordOf_write (.inl hcmd))]
    exact congrArg _ (serveWrite_inLen (s := popHost rest s) hv)

theorem paramWord_eq (c : Config) : paramWord c = if c.pad8 then 1#32 else 0#32 := by
  cases h : c.pad8 <;> simp [paramWord, flagBit, h]

/-- Settles O11: `registerWord` at each of the fourteen offsets. -/
theorem registerReadsReturnTheRegisters : Obligations.RegisterReadsReturnTheRegisters := by
  unfold Obligations.RegisterReadsReturnTheRegisters
  intro s rest off v h hs
  have hread : readWord (popHost rest s) off = some v := by
    rw [← paramWord_eq] at h
    simp only [List.mem_cons, Prod.mk.injEq, List.not_mem_nil, or_false] at h
    obtain ⟨rfl, rfl⟩ | ⟨rfl, rfl⟩ | ⟨rfl, rfl⟩ | ⟨rfl, rfl⟩ | ⟨rfl, rfl⟩ | ⟨rfl, rfl⟩ | ⟨rfl, rfl⟩ | ⟨rfl, rfl⟩ |
      ⟨rfl, rfl⟩ | ⟨rfl, rfl⟩ | ⟨rfl, rfl⟩ | ⟨rfl, rfl⟩ | ⟨rfl, rfl⟩ | ⟨rfl, rfl⟩ := h
    all_goals rfl
  rw [step_event hs rfl, serveEvent, serveRead_word_of_some hread]
  rfl

end Sys2Proof.Machine

/-! ## Command words, and the layout of the NODE and CODE windows (30_encoding.md) -/

namespace Sys2Proof.Machine

open Sys2Proof

/-! ### Command words (30_encoding.md R90, R91) -/

theorem decodeOpcode_eq_some_iff (o : Byte) (i : Instr) : decodeOpcode o = some i ↔ o = opcodeOf i := by
  constructor
  · intro h
    unfold decodeOpcode at h
    split_ifs at h
    all_goals
      cases h
      assumption
  · rintro rfl
    cases i <;> rfl

theorem decode_eq_some_iff (w : Word) (i : Instr) :
    decode w = some i ↔ zeroField w = 0#24 ∧ opcField w = opcodeOf i := by
  rw [decode, Option.ite_none_right_eq_some, decodeOpcode_eq_some_iff]

/-- A word is its two fields side by side (30_encoding.md R90). -/
theorem zeroField_append_opcField (w : Word) : zeroField w ++ opcField w = w :=
  (BitVec.extractLsb'_append_extractLsb'_eq_extractLsb' rfl).trans BitVec.extractLsb'_eq_self

theorem encode_eq_append (i : Instr) : encode i = 0#24 ++ opcodeOf i := BitVec.setWidth_eq_append (by decide)

theorem fields_encode (i : Instr) : zeroField (encode i) = 0#24 ∧ opcField (encode i) = opcodeOf i := by
  cases i <;> exact ⟨rfl, rfl⟩

/-- Settles O1: the decoder tests the two fields of a word, and they make up the word. -/
theorem decodingIsExactMatchOnTheTable : Obligations.DecodingIsExactMatchOnTheTable := by
  unfold Obligations.DecodingIsExactMatchOnTheTable
  refine ⟨by decide, fun w i => ?_⟩
  rw [decode_eq_some_iff]
  constructor
  · rintro ⟨hzero, hopc⟩
    rw [encode_eq_append, ← hzero, ← hopc, zeroField_append_opcField]
  · rintro rfl
    exact fields_encode i

/-! ### A step that runs a command (30_encoding.md R93) -/

theorem runCommand_of_decode {w : Word} {i : Instr} (h : decode w = some i) (s : State) :
    runCommand w s = exec i s := by
  simp only [runCommand, h]

theorem decode_encode (i : Instr) : decode (encode i) = some i := (decodingIsExactMatchOnTheTable.2 _ i).2 rfl

/-- `withFetchWord` puts the write of a word to CMD at the head of the queue. -/
theorem host_withFetchWord (s : State) (w : Word) : (s.withFetchWord 32 w.toNat).host = cmdw w :: s.host := by
  rw [State.withFetchWord, tableWord, Nat.mod_eq_of_lt w.isLt, BitVec.ofNat_toNat, BitVec.setWidth_eq]

/-- Settles O2: a word written to CMD is run as the command it decodes to, and `withFetchWord` puts such a write at the
head of the queue. -/
theorem stepRunsTheDecodedCommand : Obligations.StepRunsTheDecodedCommand := by
  unfold Obligations.StepRunsTheDecodedCommand
  refine ⟨fun s w rest i hs hw => ?_, fun s i => ?_, fun s hs => ?_⟩
  · exact (step_command hs rfl).trans (runCommand_of_decode hw _)
  · exact (step_command (host_withFetchWord s _) rfl).trans (runCommand_of_decode (decode_encode i) _)
  · simp only [step, hs, waitForHost]

/-! ### Reading a word -/

theorem step_readWord {s : State} {rest : List HostEvent} {off : Nat} {v : Word}
    (hs : s.host = .read off .word :: rest) (h : readWord (popHost rest s) off = some v) :
    step s = .next { s with host := rest, resp := .data (.word v) } := by
  rw [step_event hs rfl, serveEvent, serveRead_word_of_some h]
  rfl

/-- Bit 31 set beside a byte in bits 7:0: the tag of a Leaf, and VALID with LEN (30_encoding.md R103, R104). -/
theorem topBit_or_byte (b : Byte) : 0x80000000#32 ||| b.setWidth 32 = 1#1 ++ 0#23 ++ b := by
  revert b; decide

/-! ### The NODE window (30_encoding.md R103) -/

theorem readWord_node (s : State) {k j : Nat} (hk : k < 512) (hj : j < 4) :
    readWord s (nodeBase + 16 * k + 4 * j) = some (nodeWord (nodeEntry s k) j) := by
  have hindex : (nodeBase + 16 * k + 4 * j - nodeBase) / 16 = k := by omega
  have hword : (nodeBase + 16 * k + 4 * j - nodeBase) % 16 / 4 = j := by omega
  rw [readWord, if_pos (by simp only [nodeBase]; omega), windowWord, if_neg (by simp only [nodeBase]; omega),
    if_neg (by simp only [nodeBase, freqBase]; omega), if_pos (by omega), hindex, hword]

theorem nodeEntry_of_le {s : State} {k : Nat} (h : s.nodeCnt.toNat ≤ k) : nodeEntry s k = none :=
  if_neg (Nat.not_lt.2 h)

theorem nodeEntry_of_lt {s : State} {k : Nat} (h : k < s.nodeCnt.toNat) : nodeEntry s k = s.node[k]? :=
  if_pos h

/-- The child word: the left index in bits 8:0, the right index in bits 24:16, so the bits split at 9 and at 16. -/
theorem indexFields_eq (l r : Nat) :
    indexField l ||| indexField r <<< 16 = 0#7 ++ BitVec.ofNat 9 r ++ 0#7 ++ BitVec.ofNat 9 l := by
  have hbit : ∀ i, (0#7 ++ BitVec.ofNat 9 r ++ 0#7 ++ BitVec.ofNat 9 l).getLsbD i =
      (indexField l ||| indexField r <<< 16).getLsbD i := by
    intro i
    simp only [indexField, BitVec.getLsbD_append, BitVec.getLsbD_or, BitVec.getLsbD_shiftLeft,
      BitVec.getLsbD_setWidth, BitVec.getLsbD_zero]
    obtain hi | hi | hi : i < 9 ∨ 9 ≤ i ∧ i < 16 ∨ 16 ≤ i := by omega
    all_goals grind
  exact BitVec.eq_of_getLsbD_eq fun i _ => (hbit i).symm

theorem nodeWord_leaf (sym : Byte) (f : Word) {j : Nat} (hj : j < 4) :
    [f, 1#1 ++ 0#1 ++ 0#22 ++ sym, 0#32, 0#32][j]? = some (nodeWord (some (.leaf sym f)) j) := by
  have htag : 1#1 ++ 0#1 ++ 0#22 ++ sym = 0x80000000#32 ||| sym.setWidth 32 := (topBit_or_byte sym).symm
  rw [htag]
  interval_cases j <;> rfl

theorem nodeWord_internal (f : Word) (l r : Nat) {j : Nat} (hj : j < 4) :
    [f, 1#1 ++ 1#1 ++ 0#22 ++ 0#8, 0#7 ++ BitVec.ofNat 9 r ++ 0#7 ++ BitVec.ofNat 9 l, 0#32][j]? =
      some (nodeWord (some (.internal f l r)) j) := by
  rw [← indexFields_eq]
  interval_cases j <;> rfl

/-- Settles O14: the offset is that of word `j` of entry `k`, and `nodeWord` lays out each kind of entry as tabled. -/
theorem nodeWindowHasTheTabledLayout : Obligations.NodeWindowHasTheTabledLayout := by
  unfold Obligations.NodeWindowHasTheTabledLayout
  intro s rest k j hk hj hs
  refine ⟨_, step_readWord hs (readWord_node (popHost rest s) hk hj), fun hcnt => ?_, fun hcnt hnone => ?_,
    fun sym f hcnt hleaf => ?_, fun f l r hcnt hinternal => ?_⟩
  · rw [nodeEntry_of_le (s := popHost rest s) hcnt, nodeWord]
  · rw [nodeEntry_of_lt (s := popHost rest s) hcnt, popHost_node, hnone, nodeWord]
  · rw [nodeEntry_of_lt (s := popHost rest s) hcnt, popHost_node, hleaf, nodeWord_leaf sym f hj]
  · rw [nodeEntry_of_lt (s := popHost rest s) hcnt, popHost_node, hinternal, nodeWord_internal f l r hj]

/-! ### The CODE window (30_encoding.md R104) -/

theorem readWord_code (s : State) (k : Byte) {j : Nat} (hj : j < 16) :
    readWord s (codeBase + 64 * k.toNat + 4 * j) = some (codeWord (entry s.code k) j) := by
  have hk := k.isLt
  have hindex : (codeBase + 64 * k.toNat + 4 * j - codeBase) / 64 = k.toNat := by omega
  have hword : (codeBase + 64 * k.toNat + 4 * j - codeBase) % 64 / 4 = j := by omega
  rw [readWord, if_pos (by simp only [codeBase]; omega), windowWord, if_neg (by simp only [codeBase]; omega),
    if_neg (by simp only [codeBase, freqBase]; omega), if_neg (by simp only [codeBase, nodeBase]; omega),
    if_pos (by omega), hindex, hword, BitVec.ofNat_toNat, BitVec.setWidth_eq]

/-- The last bit of a bit-string is bit 0 of the number it spells (00_scope.md R11). -/
theorem testBit_val (b : Bits) (k : Nat) : (val b).testBit k = b.reverse.getD k false := by
  induction b using List.reverseRecOn generalizing k with
  | nil => simp
  | append_singleton c x ih =>
    rw [val_snoc, ← Nat.bit_val, List.reverse_concat']
    cases k with
    | zero => rw [Nat.testBit_bit_zero, List.getD_cons_zero]
    | succ k => rw [Nat.testBit_bit_succ, ih, List.getD_cons_succ]

theorem getD_append_replicate_self {α : Type} (b : List α) (d : α) (n i : Nat) :
    (b ++ List.replicate n d).getD i d = b.getD i d := by
  obtain hi | hi := Nat.lt_or_ge i b.length
  · rw [List.getD_append _ _ _ _ hi]
  · rw [List.getD_append_right _ _ _ _ hi, List.getD_eq_default _ _ hi, List.getD_eq_getElem?_getD,
      List.getElem?_getD_replicate_default_eq]

/-- `wordOfBits` places the first bit at bit 31 and fills up with zeros. -/
theorem getLsbD_wordOfBits {b : Bits} (hb : b.length ≤ 32) {i : Nat} (hi : i < 32) :
    (wordOfBits b).getLsbD (31 - i) = b.getD i false := by
  have hlen : (b ++ List.replicate (32 - b.length) false).length = 32 := by
    rw [List.length_append, List.length_replicate]
    omega
  have hbit : 31 - i < 32 := by omega
  have hindex : 32 - 1 - (31 - i) = i := by omega
  rw [wordOfBits, BitVec.getLsbD_ofNat, decide_eq_true hbit, Bool.true_and, testBit_val,
    List.getD_reverse _ (by omega), hlen, hindex, getD_append_replicate_self]

/-- Word `j + 1` of a CODE entry shows the code's bits `32*j` to `32*j + 31`. -/
theorem getLsbD_codeWord_succ (c : Bits) {j b : Nat} (hj : j < 8) (hb : b < 32) :
    (codeWord (some c) (j + 1)).getLsbD (31 - b) = c.getD (32 * j + b) false := by
  rw [codeWord, if_pos hj, getLsbD_wordOfBits (List.length_take_le _ _) hb, List.getD_eq_getElem?_getD,
    List.getElem?_take_of_lt hb, List.getElem?_drop, List.getD_eq_getElem?_getD]

theorem codeWord_succ_of_le (c : Bits) {j : Nat} (hj : 8 ≤ j) : codeWord (some c) (j + 1) = 0#32 :=
  if_neg (Nat.not_lt.2 hj)

/-- Settles O15: the offset is that of word `j` of the entry, and `codeWord` lays out the code as tabled. -/
theorem codeWindowHasTheTabledLayout : Obligations.CodeWindowHasTheTabledLayout := by
  unfold Obligations.CodeWindowHasTheTabledLayout
  intro s rest k j hj hs
  refine ⟨_, step_readWord hs (readWord_code (popHost rest s) k hj), fun hnone => ?_, fun c hc _ _ => ?_⟩
  · rw [popHost_code, hnone, codeWord]
  · rw [popHost_code, hc]
    cases j with
    | zero => exact ⟨fun _ => topBit_or_byte _, by omega, by omega⟩
    | succ j =>
      exact ⟨by omega, fun _ h8 b hb => getLsbD_codeWord_succ c (by omega) hb,
        fun h9 => codeWord_succ_of_le c (by omega)⟩

end Sys2Proof.Machine

/-! ## TRIM and ANALYZE (40_frequency.md) -/

namespace Sys2Proof.Machine

open Sys2Proof

/-! ### The function `trim` (40_frequency.md R121) -/

/-- `trim` is Mathlib's removal from the right, of the bytes in WS. -/
theorem trim_eq_rdropWhile (ws b : List Byte) : trim ws b = b.rdropWhile ws.contains := rfl

/-- What `trim` removes is a suffix of bytes in WS. -/
theorem exists_trim_append_eq (ws b : List Byte) : ∃ w, trim ws b ++ w = b ∧ ∀ x ∈ w, x ∈ ws :=
  ⟨b.rtakeWhile ws.contains, List.rdropWhile_append_rtakeWhile, fun _ hx =>
    List.contains_iff_mem.1 (List.mem_rtakeWhile_imp hx)⟩

theorem trim_eq_take (ws b : List Byte) : trim ws b = b.take (trim ws b).length :=
  List.prefix_iff_eq_take.1 (List.rdropWhile_prefix ws.contains b)

theorem getLast_trim_not_mem {ws b : List Byte} (h : trim ws b ≠ []) : (trim ws b).getLast h ∉ ws :=
  fun hmem => List.rdropWhile_last_not ws.contains b h (List.contains_iff_mem.2 hmem)

theorem trim_trim (ws b : List Byte) : trim ws (trim ws b) = trim ws b := by
  simp only [trim_eq_rdropWhile, List.rdropWhile_idempotent]

/-- The prefix `trim` keeps is empty or ends in a byte that is not in WS. -/
theorem trim_ends_outside_ws (ws b : List Byte) :
    (trim ws b).length = 0 ∨ ∃ x, b[(trim ws b).length - 1]? = some x ∧ x ∉ ws := by
  obtain ⟨w, hw, -⟩ := exists_trim_append_eq ws b
  by_cases hnil : trim ws b = []
  · exact .inl (List.length_eq_zero_iff.2 hnil)
  · have hpos := Nat.sub_one_lt_of_lt (List.length_pos_iff.2 hnil)
    have hlast : (trim ws b ++ w)[(trim ws b).length - 1]? = some ((trim ws b).getLast hnil) := by
      rw [List.getElem?_append_left hpos, ← List.getLast?_eq_getElem?, List.getLast?_eq_some_getLast]
    rw [hw] at hlast
    exact .inr ⟨_, hlast, getLast_trim_not_mem hnil⟩

/-- Every byte after the prefix `trim` keeps is in WS. -/
theorem mem_ws_of_trim_length_le {ws b : List Byte} {i : Nat} {x : Byte} (hi : (trim ws b).length ≤ i)
    (hx : b[i]? = some x) : x ∈ ws := by
  obtain ⟨w, hw, hws⟩ := exists_trim_append_eq ws b
  rw [← hw, List.getElem?_append_right hi] at hx
  exact hws x (List.mem_of_getElem? hx)

/-- Settles O20: `k` is the length `trim` keeps; the byte before it is not in WS, and every byte after it is. -/
theorem trimIsTheGreatestPrefixNotEndingInWhitespace : Obligations.TrimIsTheGreatestPrefixNotEndingInWhitespace := by
  unfold Obligations.TrimIsTheGreatestPrefixNotEndingInWhitespace
  refine ⟨fun ws b => ⟨(trim ws b).length, trim_length_le ws b, trim_eq_take ws b, trim_ends_outside_ws ws b, ?_⟩,
    fun x => Iff.rfl⟩
  rintro j hkj - (rfl | ⟨x, hx, hnot⟩)
  · exact Nat.not_lt_zero _ hkj
  · exact hnot (mem_ws_of_trim_length_le (Nat.le_sub_one_of_lt hkj) hx)

/-! ### TRIM (40_frequency.md R120) -/

/-- After TRIM's work the input is the trimmed input. -/
theorem inputBytes_trimStage (s : State) : inputBytes (trimStage s) = trim s.cfg.ws (inputBytes s) := by
  have hlen : (trimStage s).inLen.toNat = (trim s.cfg.ws (inputBytes s)).length :=
    toNat_ofNat_word ((trim_length_le _ _).trans_lt (inputBytes_length_lt s))
  rw [inputBytes_take (trimStage_inLen_le s) rfl rfl, hlen, ← trim_eq_take]

/-- TRIM's work does nothing to an input that is trimmed already. -/
theorem trimStage_eq_self {s : State} (h : trim s.cfg.ws (inputBytes s) = inputBytes s) : trimStage s = s := by
  rw [trimStage, h, inputBytes_length, BitVec.ofNat_toNat, BitVec.setWidth_eq]
  rfl

/-- Settles O19: TRIM's work leaves the trimmed input, and a trimmed input is left alone. -/
theorem trimShortensTheInput : Obligations.TrimShortensTheInput := by
  unfold Obligations.TrimShortensTheInput
  intro s
  have hin : inputBytes (succeed (trimStage s)) = trim s.cfg.ws (inputBytes s) :=
    (inputBytes_congr rfl rfl rfl).trans (inputBytes_trimStage s)
  have htrimmed : trim s.cfg.ws (inputBytes (succeed (trimStage s))) = inputBytes (succeed (trimStage s)) := by
    rw [hin, trim_trim]
  refine ⟨succeed (trimStage s), exec_trim s, rfl, hin, ?_⟩
  rw [exec_trim, trimStage_eq_self htrimmed]
  rfl

/-! ### The function `analyze` (40_frequency.md R126) -/

/-- No count wraps: each is at most the length of the input. -/
theorem toNat_entry_analyze {b : List Byte} (hb : b.length < 2 ^ 32) (s : Byte) :
    (entry (analyze b) s).toNat = b.count s := by
  rw [analyze, entry_tabulate, toNat_ofNat_word (List.count_le_length.trans_lt hb)]

/-- A count is the number of positions that hold the symbol. -/
theorem count_eq_length_positions (b : List Byte) (s : Byte) :
    b.count s = ((List.range b.length).filter fun i => b[i]? == some s).length := by
  rw [← List.countP_eq_length_filter, ← List.count_filterMap, filterMap_range_getElem?]

theorem analyze_perm {b b' : List Byte} (h : b.Perm b') : analyze b' = analyze b :=
  table_ext fun s => by rw [analyze, analyze, entry_tabulate, entry_tabulate, h.count_eq]

theorem entry_analyze_ne_zero_iff {b : List Byte} (hb : b.length < 2 ^ 32) (s : Byte) :
    entry (analyze b) s ≠ 0#32 ↔ s ∈ b := by
  rw [← List.count_pos_iff, ← toNat_entry_analyze hb, Nat.pos_iff_ne_zero, ne_eq, ne_eq, BitVec.toNat_eq,
    BitVec.toNat_ofNat, Nat.zero_mod]

/-- Settles O21: no count wraps, and each clause is then one about `List.count`. -/
theorem analyzeCountsEverySymbol : Obligations.AnalyzeCountsEverySymbol := by
  unfold Obligations.AnalyzeCountsEverySymbol
  refine fun b hb => ⟨fun s => ?_, freqTotal_analyze hb, fun s => ?_, fun _ => analyze_perm,
    entry_analyze_ne_zero_iff hb⟩
  · rw [toNat_entry_analyze hb, count_eq_length_positions]
  · rw [toNat_entry_analyze hb]
    exact List.count_le_length

/-! ### ANALYZE (40_frequency.md R125) -/

/-- The entries of `analyze b` that are not 0 are as many as the different bytes of `b` (10_state.md R28). -/
theorem symbolCount_analyze {b : List Byte} (hb : b.length < 2 ^ 32) : symbolCount (analyze b) = b.dedup.length := by
  have hperm : (allSymbols.filter fun s => entry (analyze b) s != 0#32).Perm b.dedup := by
    refine (List.perm_ext_iff_of_nodup (allSymbols_nodup.filter _) b.nodup_dedup).2 fun s => ?_
    rw [List.mem_filter, bne_iff_ne, entry_analyze_ne_zero_iff hb, List.mem_dedup]
    exact and_iff_right (mem_allSymbols s)
  rw [symbolCount, toList_eq_map_entry, List.countP_map, List.countP_eq_length_filter]
  exact hperm.length_eq

/-- Settles O22: ANALYZE always runs its work, and NSYM holds the number of entries without wrapping. -/
theorem analyzeFillsTheFrequencyTable : Obligations.AnalyzeFillsTheFrequencyTable := by
  unfold Obligations.AnalyzeFillsTheFrequencyTable
  intro s
  have hnsym : (succeed (analyzeStage s)).nsym.toNat = symbolCount (analyze (inputBytes s)) :=
    toNat_ofNat_word ((symbolCount_le _).trans_lt (by decide))
  exact ⟨_, exec_analyze s, rfl, hnsym.trans (symbolCount_analyze (inputBytes_length_lt s))⟩

end Sys2Proof.Machine

/-! ## BUILD: its completion, the pops, the degenerate tables and the shape of the tree (41_tree.md) -/

namespace Sys2Proof.Machine

open Sys2Proof

/-! ### BUILD in phase Analyzed (41_tree.md R140) -/

/-- Settles O23: BUILD runs its work in its phase, and that work and `succeed` write the named fields only. -/
theorem buildCompletesInPhaseAnalyzed : Obligations.BuildCompletesInPhaseAnalyzed := by
  unfold Obligations.BuildCompletesInPhaseAnalyzed
  exact fun s hs => exec_build_legal hs

/-! ### The key order and a pop (41_tree.md R141, R142) -/

/-- The key of a node, in the lexicographic order: its frequency, then its index. -/
def nodeKey (ns : List Node) (k : Nat) : Nat ×ₗ Nat := toLex ((freqAt ns k).toNat, k)

theorem keyLt_iff {ns : List Node} {x y : Nat} : keyLt ns x y = true ↔
    (freqAt ns x).toNat < (freqAt ns y).toNat ∨ ((freqAt ns x).toNat = (freqAt ns y).toNat ∧ x < y) := by
  rw [keyLt, decide_eq_true_iff, BitVec.toNat_inj]

theorem keyLt_iff_nodeKey_lt {ns : List Node} {x y : Nat} : keyLt ns x y = true ↔ nodeKey ns x < nodeKey ns y := by
  rw [keyLt_iff, nodeKey, nodeKey, Prod.Lex.toLex_lt_toLex]

/-- Different nodes have different keys. -/
theorem nodeKey_injective (ns : List Node) : Function.Injective (nodeKey ns) :=
  fun _ _ h => congrArg (fun p => (ofLex p).2) h

/-- Of two nodes the one popped first has the smaller key. -/
theorem nodeKey_ite_le (ns : List Node) (j q : Nat) :
    nodeKey ns (if keyLt ns j q then j else q) ≤ nodeKey ns j ∧
      nodeKey ns (if keyLt ns j q then j else q) ≤ nodeKey ns q := by
  split
  · rename_i hlt
    exact ⟨le_rfl, (keyLt_iff_nodeKey_lt.1 hlt).le⟩
  · rename_i hnlt
    exact ⟨not_lt.1 fun h => hnlt (keyLt_iff_nodeKey_lt.2 h), le_rfl⟩

theorem nodeKey_argminKey_le (ns : List Node) (q : Nat) (qs : List Nat) :
    ∀ k ∈ q :: qs, nodeKey ns (argminKey ns q qs) ≤ nodeKey ns k := by
  induction qs generalizing q with
  | nil => simp [argminKey]
  | cons j qs ih =>
    have hstep : argminKey ns q (j :: qs) = argminKey ns (if keyLt ns j q then j else q) qs := rfl
    have hbest := ih (if keyLt ns j q then j else q)
    rw [← hstep, List.forall_mem_cons] at hbest
    obtain ⟨hhead, htail⟩ := hbest
    obtain ⟨hj, hq⟩ := nodeKey_ite_le ns j q
    rw [List.forall_mem_cons, List.forall_mem_cons]
    exact ⟨hhead.trans hq, hhead.trans hj, htail⟩

/-- The popped node comes before every node left in the queue. -/
theorem keyLt_of_popMin {ns : List Node} {q q' : List Nat} {m k : Nat} (hq : q.Nodup)
    (h : popMin ns q = some (m, q')) (hk : k ∈ q') : keyLt ns m k = true := by
  have hperm := popMin_perm h
  have hne : m ≠ k := by
    rintro rfl
    exact (List.nodup_cons.1 (hperm.nodup_iff.1 hq)).1 hk
  have hle : nodeKey ns m ≤ nodeKey ns k := by
    cases q with
    | nil => cases h
    | cons j qs =>
      obtain ⟨rfl, -⟩ := Prod.mk.inj (Option.some.inj h)
      exact nodeKey_argminKey_le ns j qs k (hperm.mem_iff.2 (List.mem_cons_of_mem _ hk))
  exact keyLt_iff_nodeKey_lt.2 (hle.lt_of_ne ((nodeKey_injective ns).ne hne))

/-- Settles O25: `argminKey` has the least key of the queue, and no other member has the same. -/
theorem popTakesTheLeastKey : Obligations.PopTakesTheLeastKey := by
  unfold Obligations.PopTakesTheLeastKey
  exact ⟨fun _ _ _ => keyLt_iff, fun ns q hq => ⟨popMin_eq_none, fun m q' h =>
    ⟨popMin_perm h, fun k => keyLt_of_popMin hq h⟩⟩⟩

/-! ### One leaf for each entry (41_tree.md R141) -/

/-- The leaves are those of the symbols that have an entry. -/
theorem leaves_eq_map (f : Table Word) : leaves f =
    (allSymbols.filter fun s => entry f s != 0#32).map fun s => .leaf s (entry f s) := by
  rw [leaves_eq, ← List.filterMap_eq_map, List.filterMap_filter]
  refine List.filterMap_congr fun s _ => ?_
  by_cases h : entry f s = 0#32 <;> simp [h]

theorem leaves_length (f : Table Word) : (leaves f).length = symbolCount f := by
  rw [leaves_eq_map, List.length_map, ← List.countP_eq_length_filter, symbolCount, toList_eq_map_entry,
    List.countP_map]
  rfl

/-! ### No entry, and one entry (41_tree.md R145, R146) -/

theorem leaves_of_no_entry {f : Table Word} (h : ∀ s, entry f s = 0#32) : leaves f = [] := by
  simp [leaves_eq_map, h]

theorem leaves_of_one_entry {f : Table Word} {s : Byte} (hs : entry f s ≠ 0#32)
    (h : ∀ x, x ≠ s → entry f x = 0#32) : leaves f = [.leaf s (entry f s)] := by
  have hpred : (fun x => entry f x != 0#32) = fun x => x == s := by
    funext x
    by_cases hx : x = s
    · simp [hx, hs]
    · simp [hx, h x hx]
  rw [leaves_eq_map, hpred, List.filter_beq, List.count_eq_one_of_mem allSymbols_nodup (mem_allSymbols s)]
  rfl

/-- Without leaves there is nothing to merge. -/
theorem mergeAll_of_no_leaf {f : Table Word} (h : leaves f = []) : mergeAll f = ([], []) := by
  rw [mergeAll, h]
  rfl

/-- One leaf is queued alone, so nothing is merged. -/
theorem mergeAll_of_one_leaf {f : Table Word} {x : Node} (h : leaves f = [x]) : mergeAll f = ([x], [0]) := by
  rw [mergeAll, h]
  rfl

theorem entry_treeTable_nil (s : Byte) : entry (treeTable []) s = none := by
  simp [treeTable, derive, codeTableOf]

/-- A root that is a Leaf gets the code "0" (42_codetable.md R162). -/
theorem entry_treeTable_leaf (sym : Byte) (f : Word) (s : Byte) :
    entry (treeTable [.leaf sym f]) s = if s = sym then some [false] else none := by
  have htable : treeTable [.leaf sym f] = codeTableOf [(sym, [false])] := rfl
  rw [htable, codeTableOf, entry_tabulate, List.lookup_cons]
  by_cases hs : s = sym
  · simp [hs]
  · simp [hs, beq_eq_false_iff_ne.2 hs]

/-- Settles O27: such a table has no leaf or one, which leaves the merge loop nothing to do. -/
theorem noneOrOneSymbolIsSpecialCased : Obligations.NoneOrOneSymbolIsSpecialCased := by
  unfold Obligations.NoneOrOneSymbolIsSpecialCased
  refine ⟨fun f h => ?_, entry_treeTable_nil, fun f s hs h => ?_, entry_treeTable_leaf⟩
  · rw [buildNodes, buildRoot, mergeAll_of_no_leaf (leaves_of_no_entry h)]
    exact ⟨rfl, rfl⟩
  · rw [buildNodes, buildRoot, mergeAll_of_one_leaf (leaves_of_one_entry hs h)]
    exact ⟨rfl, rfl⟩

/-! ### Children in key order (41_tree.md R144 (g))

The two nodes a merge pops are in key order, and later nodes change no key. -/

/-- The children of every Internal node are in key order. -/
def ChildrenInKeyOrder (ns : List Node) : Prop :=
  ∀ (k : Nat) (g : Word) (l r : Nat), ns[k]? = some (.internal g l r) → keyLt ns l r = true

theorem childrenInKeyOrder_leaves (f : Table Word) : ChildrenInKeyOrder (leaves f) := by
  intro k g l r hk
  obtain ⟨s, hs, -⟩ := eq_leaf_of_mem_leaves (List.mem_of_getElem? hk)
  cases hs

theorem keyLt_append {ns : List Node} {x y : Nat} (hx : x < ns.length) (hy : y < ns.length) (ms : List Node) :
    keyLt (ns ++ ms) x y = keyLt ns x y := by
  rw [keyLt, freqAt_append hx, freqAt_append hy, keyLt]

theorem MergeInv.queue_nodup {f : Table Word} {ns : List Node} {q : List Nat} (h : MergeInv f ns q) : q.Nodup := by
  rw [List.nodup_iff_count_le_one]
  intro k
  by_cases hk : k ∈ q
  · have honce := h.once k (h.queued k hk)
    omega
  · rw [List.count_eq_zero.2 hk]
    exact Nat.zero_le 1

theorem MergeInv.children_lt {f : Table Word} {ns : List Node} {q : List Nat} (h : MergeInv f ns q) {k : Nat}
    {g : Word} {l r : Nat} (hk : ns[k]? = some (.internal g l r)) : l < ns.length ∧ r < ns.length := by
  have hlt := (List.getElem?_eq_some_iff.1 hk).1
  have hok := h.shape k _ hk
  simp only [nodeOk, decide_eq_true_eq] at hok
  omega

/-- The two indices a merge step pops are in key order. -/
theorem mergeStep_pops_in_order {ns ns' : List Node} {q q' : List Nat} (hq : q.Nodup)
    (h : mergeStep ns q = some (ns', q')) :
    ∃ a b r, q.Perm (a :: b :: r) ∧ keyLt ns a b = true ∧ ns' = ns ++ [mergeNode ns a b] ∧
      q' = r ++ [ns.length] := by
  simp only [mergeStep, Option.bind_eq_some_iff, Option.map_eq_some_iff, Prod.mk.injEq] at h
  obtain ⟨⟨a, q₁⟩, ha, ⟨b, r⟩, hb, rfl, rfl⟩ := h
  have hperm := popMin_perm hb
  have hab : keyLt ns a b = true := keyLt_of_popMin hq ha (hperm.mem_iff.2 List.mem_cons_self)
  exact ⟨a, b, r, (popMin_perm ha).trans (hperm.cons a), hab, rfl, rfl⟩

theorem ChildrenInKeyOrder.merge {f : Table Word} {ns : List Node} {q r : List Nat} {a b : Nat}
    (ho : ChildrenInKeyOrder ns) (h : MergeInv f ns q) (hq : q.Perm (a :: b :: r)) (hab : keyLt ns a b = true) :
    ChildrenInKeyOrder (ns ++ [mergeNode ns a b]) := by
  intro k g l r' hk
  by_cases hlt : k < ns.length
  · rw [List.getElem?_append_left hlt] at hk
    obtain ⟨hl, hr⟩ := h.children_lt hk
    exact (keyLt_append hl hr _).trans (ho k g l r' hk)
  · rw [List.getElem?_append_right (not_lt.1 hlt)] at hk
    obtain ⟨-, hnode⟩ := List.mem_singleton.1 (List.mem_of_getElem? hk)
    obtain ⟨ha, hb, -⟩ := h.lt_of_popped hq
    exact (keyLt_append ha hb _).trans hab

/-- What every merge step keeps, the merge loop keeps. -/
theorem mergeLoop_keeps {P : List Node → List Nat → Prop}
    (hstep : ∀ {ns q ns' q'}, P ns q → mergeStep ns q = some (ns', q') → P ns' q') (fuel : Nat) {ns : List Node}
    {q : List Nat} (h : P ns q) : P (mergeLoop fuel ns q).1 (mergeLoop fuel ns q).2 := by
  induction fuel generalizing ns q with
  | zero => exact h
  | succ fuel ih =>
    unfold mergeLoop
    split
    · exact h
    · rename_i hs
      exact ih (hstep h hs)

theorem childrenInKeyOrder_buildNodes {f : Table Word} (hf : freqTotal f < 2 ^ 32) :
    ChildrenInKeyOrder (buildNodes f) := by
  refine (mergeLoop_keeps (P := fun ns q => MergeInv f ns q ∧ ChildrenInKeyOrder ns) ?_ _
    ⟨mergeInv_leaves f, childrenInKeyOrder_leaves f⟩).2
  rintro ns q ns' q' ⟨h, ho⟩ hs
  obtain ⟨a, b, r, hperm, hab, rfl, rfl⟩ := mergeStep_pops_in_order h.queue_nodup hs
  exact ⟨h.merge hf hperm, ho.merge h hperm hab⟩

/-! ### The shape of the tree (41_tree.md R144) -/

section Build

variable {f : Table Word}

theorem leafCount_buildNodes (hf : freqTotal f < 2 ^ 32) : leafCount (buildNodes f) = symbolCount f := by
  obtain ⟨h, -⟩ := mergeInv_mergeAll hf
  exact h.leafCount_eq.trans (leaves_length f)

theorem length_buildNodes (hf : freqTotal f < 2 ^ 32) : (buildNodes f).length = 2 * symbolCount f - 1 := by
  obtain ⟨hlen, -⟩ := treeOk_buildNodes hf
  rw [hlen, leafCount_buildNodes hf]

theorem take_buildNodes (hf : freqTotal f < 2 ^ 32) : (buildNodes f).take (symbolCount f) = leaves f := by
  obtain ⟨⟨⟨ms, hms, -⟩, -⟩, -⟩ := mergeInv_mergeAll hf
  rw [buildNodes, hms, ← leaves_length, List.take_left]

/-- The root, alone in the queue at the end, carries the total of the queue. -/
theorem freqAt_buildRoot (hf : freqTotal f < 2 ^ 32) (hn : 1 ≤ symbolCount f) :
    (freqAt (buildNodes f) (buildRoot f)).toNat = freqTotal f := by
  obtain ⟨h, hq⟩ := mergeInv_mergeAll hf
  have hlen := length_buildNodes hf
  have hne : (mergeAll f).1 ≠ [] := List.ne_nil_of_length_pos (by rw [buildNodes] at hlen; omega)
  have htotal := h.total
  have hqueue := h.queue_eq hq
  rw [if_neg hne] at hqueue
  rw [buildRoot_eq hf, ← htotal, hqueue, List.map_singleton, List.sum_singleton]
  rfl

/-- The leaves stand first (10_state.md R36). -/
theorem TreeOk.lt_leafCount_of_isLeaf {ns : List Node} (h : TreeOk ns) {k : Nat}
    (hk : (ns[k]?.map Node.isLeaf) = some true) : k < leafCount ns := by
  obtain ⟨x, hx, hleaf⟩ := Option.map_eq_some_iff.1 hk
  have hok := h.nodeOk_of_getElem? hx
  cases x with
  | leaf s f =>
    simp only [nodeOk, decide_eq_true_eq] at hok
    exact hok.1
  | internal f l r => cases hleaf

/-- A path to a leaf has at most one edge for each Internal node, and at least one when the root is Internal. -/
theorem leafDepth_bounds (hf : freqTotal f < 2 ^ 32) (hn : 1 ≤ symbolCount f) {c : Bits} {k : Nat}
    (hc : follow (buildNodes f) (buildRoot f) c = some k)
    (hleaf : ((buildNodes f)[k]?.map Node.isLeaf) = some true) :
    c.length ≤ symbolCount f - 1 ∧ (2 ≤ symbolCount f → 1 ≤ c.length) := by
  have hlen := length_buildNodes hf
  rw [buildRoot_eq hf] at hc
  by_cases hnil : c = []
  · subst hnil
    refine ⟨Nat.zero_le _, fun h2 => ?_⟩
    obtain rfl : (buildNodes f).length - 1 = k := by simpa using hc
    have hroot := (treeOk_buildNodes hf).lt_leafCount_of_isLeaf hleaf
    rw [leafCount_buildNodes hf] at hroot
    omega
  · have hpath := (treeOk_buildNodes hf).length_follow hc hnil
    have hpos := List.length_pos_iff.2 hnil
    rw [leafCount_buildNodes hf] at hpath
    omega

end Build

/-- Settles O26: the merge loop keeps `MergeInv` and `ChildrenInKeyOrder`, and ends with the root alone in the queue. -/
theorem buildMakesAStrictTree : Obligations.BuildMakesAStrictTree := by
  unfold Obligations.BuildMakesAStrictTree
  exact fun f hf hn => ⟨leafCount_buildNodes hf, length_buildNodes hf, buildRoot_eq hf, take_buildNodes hf,
    treeOk_buildNodes hf, freqAt_buildRoot hf hn, fun _ _ => leafDepth_bounds hf hn, childrenInKeyOrder_buildNodes hf⟩

end Sys2Proof.Machine

/-! ## DERIVE: its codes are the paths to the leaves, its completion, and the tables of a staged compression
(42_codetable.md) -/

namespace Sys2Proof.Machine

open Sys2Proof

/-! ### Each entry of a tree is reached by one path -/

/-- Two positions whose entries are in no order in a list that is pairwise ordered are the same. -/
theorem index_eq_of_pairwise {α : Type} {R : α → α → Prop} {l : List α} (hl : l.Pairwise R) {i j : Nat} {x y : α}
    (hi : l[i]? = some x) (hj : l[j]? = some y) (hxy : ¬ R x y) (hyx : ¬ R y x) : i = j := by
  obtain ⟨hil, rfl⟩ := List.getElem?_eq_some_iff.1 hi
  obtain ⟨hjl, rfl⟩ := List.getElem?_eq_some_iff.1 hj
  rw [List.pairwise_iff_getElem] at hl
  rcases Nat.lt_trichotomy i j with hlt | heq | hlt
  · exact absurd (hl i j hil hjl hlt) hxy
  · exact heq
  · exact absurd (hl j i hjl hil hlt) hyx

section Tree

variable {ns : List Node}

theorem symbolAtPath_nil (k : Nat) : symbolAtPath ns k [] = ns[k]?.bind Node.sym := symbolAtPath_eq ns k []

theorem symbolAtPath_cons (k : Nat) (b : Bool) (p : Bits) :
    symbolAtPath ns k (b :: p) = (edge ns k b).bind fun j => symbolAtPath ns j p := by
  simp only [symbolAtPath_eq, follow_cons, Option.bind_assoc]

theorem symbolAtPath_eq_some_iff {k : Nat} {p : Bits} {s : Byte} :
    symbolAtPath ns k p = some s ↔ ∃ j x, follow ns k p = some j ∧ ns[j]? = some x ∧ x.sym = some s := by
  simp only [symbolAtPath_eq, Option.bind_eq_some_iff, exists_and_left]

theorem follow_snoc (k : Nat) (p : Bits) (b : Bool) :
    follow ns k (p ++ [b]) = (follow ns k p).bind fun j => edge ns j b := by
  simp [follow_append, follow_cons]

/-- Every entry is a child at most once. -/
theorem TreeOk.children_nodup (h : TreeOk ns) : (ns.flatMap Node.children).Nodup := by
  rw [List.nodup_iff_count_le_one]
  intro k
  by_cases hk : k < ns.length - 1
  · obtain ⟨-, -, -, -, honce⟩ := h
    exact (honce k hk).le
  · rw [count_children_of_length_le (fun _ _ => h.nodeOk_of_getElem?) (by omega)]
    exact Nat.zero_le 1

/-- The children of an entry are where its edges lead. -/
theorem mem_children_iff_edge {k j : Nat} :
    (∃ x, ns[k]? = some x ∧ j ∈ x.children) ↔ ∃ b, edge ns k b = some j := by
  constructor
  · rintro ⟨x, hx, hj⟩
    cases x with
    | leaf s f => cases hj
    | internal f l r =>
      simp only [Node.children, List.mem_cons, List.not_mem_nil, or_false] at hj
      rcases hj with rfl | rfl
      · exact ⟨false, edge_internal hx false⟩
      · exact ⟨true, edge_internal hx true⟩
  · rintro ⟨b, hb⟩
    obtain ⟨f, l, r, hk, hj⟩ := internal_of_edge hb
    exact ⟨_, hk, by simpa [Node.children] using hj⟩

/-- No two entries have a child in common. -/
theorem TreeOk.parent_unique (h : TreeOk ns) {i i' j : Nat} {b b' : Bool} (hi : edge ns i b = some j)
    (hi' : edge ns i' b' = some j) : i = i' := by
  obtain ⟨x, hx, hj⟩ := mem_children_iff_edge.2 ⟨b, hi⟩
  obtain ⟨x', hx', hj'⟩ := mem_children_iff_edge.2 ⟨b', hi'⟩
  obtain ⟨-, hdisj⟩ := List.nodup_flatMap.1 h.children_nodup
  exact index_eq_of_pairwise hdisj hx hx' (fun hd => hd hj hj') fun hd => hd hj' hj

/-- Only one edge leads to an entry: its parent has two different children. -/
theorem TreeOk.edge_unique (h : TreeOk ns) {i i' j : Nat} {b b' : Bool} (hi : edge ns i b = some j)
    (hi' : edge ns i' b' = some j) : i = i' ∧ b = b' := by
  obtain rfl := h.parent_unique hi hi'
  obtain ⟨f, l, r, hk, -⟩ := internal_of_edge hi
  have hok := h.nodeOk_of_getElem? hk
  simp only [nodeOk, decide_eq_true_eq] at hok
  obtain ⟨-, -, -, hlr, -⟩ := hok
  rw [← hi', edge_internal hk, edge_internal hk, Option.some_inj] at hi
  match b, b', hi with
  | false, false, _ => exact ⟨rfl, rfl⟩
  | false, true, hi => exact absurd hi hlr
  | true, false, hi => exact absurd hi.symm hlr
  | true, true, _ => exact ⟨rfl, rfl⟩

/-- A path that is not empty ends below where it starts. -/
theorem TreeOk.follow_lt (h : TreeOk ns) {k j : Nat} {p : Bits} {b : Bool}
    (hp : follow ns k (p ++ [b]) = some j) : j < k := by
  induction p generalizing k with
  | nil =>
    rw [follow_snoc, follow_nil, Option.bind_some] at hp
    exact (h.edge_lt hp).2
  | cons b' p ih =>
    rw [List.cons_append, follow_cons, Option.bind_eq_some_iff] at hp
    obtain ⟨i, hi, hp⟩ := hp
    exact (ih hp).trans (h.edge_lt hi).2

/-- Two paths from one entry to another are the same, by their last edges. -/
theorem TreeOk.follow_unique (h : TreeOk ns) {k j : Nat} {p q : Bits} (hp : follow ns k p = some j)
    (hq : follow ns k q = some j) : p = q := by
  induction p using List.reverseRecOn generalizing j q with
  | nil =>
    obtain rfl := Option.some.inj hp
    rcases List.eq_nil_or_concat' q with rfl | ⟨q, b, rfl⟩
    · rfl
    · exact (h.follow_lt hq).false.elim
  | append_singleton p b ih =>
    rcases List.eq_nil_or_concat' q with rfl | ⟨q, b', rfl⟩
    · obtain rfl := Option.some.inj hq
      exact (h.follow_lt hp).false.elim
    · rw [follow_snoc, Option.bind_eq_some_iff] at hp hq
      obtain ⟨i, hpi, hi⟩ := hp
      obtain ⟨i', hqi, hi'⟩ := hq
      obtain ⟨rfl, rfl⟩ := h.edge_unique hi hi'
      rw [ih hpi hqi]

/-- No symbol has two leaves. -/
theorem TreeOk.leaf_unique (h : TreeOk ns) {i j : Nat} {x y : Node} {s : Byte} (hi : ns[i]? = some x)
    (hj : ns[j]? = some y) (hx : x.sym = some s) (hy : y.sym = some s) : i = j := by
  obtain ⟨-, -, -, hsym, -⟩ := h
  rw [List.pairwise_filterMap] at hsym
  exact index_eq_of_pairwise hsym hi hj (fun hlt => (hlt s hx s hy).false) fun hlt => (hlt s hy s hx).false

/-- No symbol has two paths to a leaf. -/
theorem TreeOk.symbolAtPath_unique (h : TreeOk ns) {k : Nat} {p q : Bits} {s : Byte}
    (hp : symbolAtPath ns k p = some s) (hq : symbolAtPath ns k q = some s) : p = q := by
  obtain ⟨i, x, hpi, hi, hx⟩ := symbolAtPath_eq_some_iff.1 hp
  obtain ⟨j, y, hqj, hj, hy⟩ := symbolAtPath_eq_some_iff.1 hq
  obtain rfl := h.leaf_unique hi hj hx hy
  exact h.follow_unique hpi hqj

/-- Every entry but the root has a parent, and so a path from the root leads to every entry. -/
theorem TreeOk.exists_path (h : TreeOk ns) {k : Nat} (hk : k < ns.length) :
    ∃ p, follow ns (ns.length - 1) p = some k := by
  induction hd : ns.length - 1 - k using Nat.strong_induction_on generalizing k with
  | _ d ih =>
    by_cases hroot : k = ns.length - 1
    · exact ⟨[], by rw [hroot, follow_nil]⟩
    · have honce : (ns.flatMap Node.children).count k = 1 := by
        obtain ⟨-, -, -, -, honce⟩ := h
        exact honce k (by omega)
      obtain ⟨x, hx, hkx⟩ := List.mem_flatMap.1 (List.count_pos_iff.1 (honce.symm ▸ Nat.one_pos))
      obtain ⟨i, hi⟩ := List.getElem?_of_mem hx
      obtain ⟨b, hb⟩ := mem_children_iff_edge.1 ⟨x, hi, hkx⟩
      have hlt := (h.edge_lt hb).2
      have hlen := (List.getElem?_eq_some_iff.1 hi).1
      obtain ⟨p, hp⟩ := ih _ (by omega) hlen rfl
      exact ⟨p ++ [b], by rw [follow_snoc, hp, Option.bind_some, hb]⟩

end Tree

/-! ### The walk of DERIVE emits every path to a leaf (42_codetable.md R161) -/

/-- With fuel for its length, the walk emits every path to a leaf. -/
theorem mem_visit_of_path {ns : List Node} {fuel k : Nat} {acc p : Bits} {s : Byte}
    (hp : symbolAtPath ns k p = some s) (hf : p.length < fuel) : (s, acc ++ p) ∈ visit ns fuel k acc := by
  induction p generalizing fuel k acc with
  | nil =>
    obtain ⟨fuel, rfl⟩ := Nat.exists_eq_add_one_of_ne_zero (Nat.ne_zero_of_lt hf)
    rw [symbolAtPath_nil, Option.bind_eq_some_iff] at hp
    obtain ⟨x, hx, hxs⟩ := hp
    cases x with
    | leaf sym f =>
      obtain rfl := Option.some.inj hxs
      simp [visit, hx]
    | internal f l r => cases hxs
  | cons b p ih =>
    obtain ⟨fuel, rfl⟩ := Nat.exists_eq_add_one_of_ne_zero (Nat.ne_zero_of_lt hf)
    rw [symbolAtPath_cons, Option.bind_eq_some_iff] at hp
    obtain ⟨j, hj, hp⟩ := hp
    obtain ⟨f, l, r, hk, -⟩ := internal_of_edge hj
    have hmem := ih (acc := acc ++ [b]) hp (Nat.lt_of_succ_lt_succ hf)
    rw [edge_internal hk] at hj
    rw [List.append_assoc, List.singleton_append, ← Option.some.inj hj] at hmem
    rw [visit, hk]
    cases b
    · exact List.mem_append_left _ hmem
    · exact List.mem_append_right _ hmem

/-- Every symbol of the pairs has an entry in their table. -/
theorem exists_entry_codeTableOf {ps : List (Byte × Bits)} {s : Byte} {c : Bits} (h : (s, c) ∈ ps) :
    ∃ d, entry (codeTableOf ps) s = some d := by
  rw [codeTableOf, entry_tabulate, ← Option.isSome_iff_exists, List.lookup_isSome_iff]
  exact ⟨(s, c), h, beq_self_eq_true s⟩

/-- A path from the root to a leaf has fewer edges than the tree has entries. -/
theorem TreeOk.path_length_lt {ns : List Node} (h : TreeOk ns) {p : Bits} {s : Byte}
    (hp : symbolAtPath ns (ns.length - 1) p = some s) : p.length < ns.length := by
  obtain ⟨j, x, hj, hx, -⟩ := symbolAtPath_eq_some_iff.1 hp
  have hpos := Nat.zero_lt_of_lt (List.getElem?_eq_some_iff.1 hx).1
  by_cases hnil : p = []
  · rwa [hnil]
  · have hlen := h.length_follow hj hnil
    obtain ⟨hsize, -⟩ := h
    omega

/-- DERIVE gives a code to every symbol that a path from the root leads to. -/
theorem TreeOk.exists_code_of_path {ns : List Node} (h : TreeOk ns) {p : Bits} {s : Byte}
    (hp : symbolAtPath ns (ns.length - 1) p = some s) : ∃ d, entry (treeTable ns) s = some d := by
  have hlen := h.path_length_lt hp
  rw [treeTable, derive, if_neg (Nat.ne_zero_of_lt hlen)]
  split
  · rename_i sym f hroot
    have hsym : symbolAtPath ns (ns.length - 1) [] = some sym := by
      rw [symbolAtPath_nil, hroot]
      rfl
    obtain rfl := symbolAtPath_eq_of_prefix List.nil_prefix hsym hp
    exact exists_entry_codeTableOf (List.mem_singleton_self _)
  · exact exists_entry_codeTableOf (mem_visit_of_path (acc := []) hp hlen)

/-- The root of a tree of two or more leaves is Internal. -/
theorem TreeOk.root_ne_leaf {ns : List Node} (h : TreeOk ns) (hn : 2 ≤ leafCount ns) (sym : Byte) (f : Word) :
    ns[ns.length - 1]? ≠ some (.leaf sym f) := by
  intro hroot
  have hlt := h.lt_leafCount_of_isLeaf (k := ns.length - 1) (by rw [hroot]; rfl)
  obtain ⟨hlen, -⟩ := h
  omega

/-- In a tree of two or more leaves the code of a symbol is the path to its leaf: every code is such a path, and no
symbol has another. -/
theorem TreeOk.entry_treeTable_iff {ns : List Node} (h : TreeOk ns) (hn : 2 ≤ leafCount ns) {s : Byte} {c : Bits} :
    entry (treeTable ns) s = some c ↔ symbolAtPath ns (ns.length - 1) c = some s := by
  have hpath : ∀ d, entry (treeTable ns) s = some d → symbolAtPath ns (ns.length - 1) d = some s := by
    intro d hd
    obtain ⟨f, hroot, -⟩ | ⟨-, -, hp⟩ := entry_treeTable hd
    · exact absurd hroot (h.root_ne_leaf hn s f)
    · exact hp
  refine ⟨hpath c, fun hp => ?_⟩
  obtain ⟨d, hd⟩ := h.exists_code_of_path hp
  rw [hd, h.symbolAtPath_unique hp (hpath d hd)]

/-- Settles O29: the walk emits exactly the paths to the leaves, and each symbol has one at most. -/
theorem codesAreThePathsToTheLeaves : Obligations.CodesAreThePathsToTheLeaves := by
  unfold Obligations.CodesAreThePathsToTheLeaves
  exact fun ns h hn s c => h.entry_treeTable_iff hn

/-! ### Every bit sequence leads to a leaf (42_codetable.md R167) -/

/-- From every entry any bit sequence leads to a leaf: each edge goes to a smaller index, and only a leaf has none. -/
theorem TreeOk.exists_symbolAtPath {ns : List Node} (h : TreeOk ns) {k : Nat} (hk : k < ns.length)
    (bits : Nat → Bool) : ∃ m s, symbolAtPath ns k ((List.range m).map bits) = some s := by
  induction k using Nat.strong_induction_on generalizing bits with
  | _ k ih =>
    cases hx : ns[k] with
    | leaf sym f =>
      refine ⟨0, sym, ?_⟩
      rw [List.range_zero, List.map_nil, symbolAtPath_nil, List.getElem?_eq_getElem hk, hx]
      rfl
    | internal f l r =>
      have hedge := edge_internal (List.getElem?_eq_some_iff.2 ⟨hk, hx⟩) (bits 0)
      have hlt := (h.edge_lt hedge).2
      obtain ⟨m, s, hs⟩ := ih _ hlt (hlt.trans hk) (fun i => bits (i + 1))
      refine ⟨m + 1, s, ?_⟩
      rw [List.range_succ_eq_map, List.map_cons, List.map_map, symbolAtPath_cons, hedge]
      exact hs

theorem map_range_prefix (bits : Nat → Bool) {m n : Nat} (h : m ≤ n) :
    (List.range m).map bits <+: (List.range n).map bits := by
  rw [← Nat.min_eq_left h, ← List.take_range]
  exact (List.take_prefix m _).map bits

/-- Two paths to a leaf along one bit sequence lead to the same symbol: the shorter begins the longer. -/
theorem symbolAtPath_unique_on {ns : List Node} {k : Nat} {bits : Nat → Bool} {m n : Nat} {x y : Byte}
    (hx : symbolAtPath ns k ((List.range m).map bits) = some x)
    (hy : symbolAtPath ns k ((List.range n).map bits) = some y) : x = y := by
  rcases Nat.le_total m n with h | h
  · exact symbolAtPath_eq_of_prefix (map_range_prefix bits h) hx hy
  · exact (symbolAtPath_eq_of_prefix (map_range_prefix bits h) hy hx).symm

/-- Settles O32: followed from the root, the sequence leads to one leaf, whose path is the code. -/
theorem treeCodesAreComplete : Obligations.TreeCodesAreComplete := by
  unfold Obligations.TreeCodesAreComplete
  intro ns h hn bits
  simp only [h.entry_treeTable_iff hn]
  have hroot : ns.length - 1 < ns.length := by
    obtain ⟨hlen, -⟩ := h
    omega
  obtain ⟨m, s, hs⟩ := h.exists_symbolAtPath hroot bits
  refine ⟨s, ⟨_, hs, by rw [List.length_map, List.length_range]⟩, ?_⟩
  rintro s' ⟨c, hc, hbits⟩
  rw [hbits] at hc
  exact symbolAtPath_unique_on hc hs

/-! ### Every symbol of the frequency table gets a code (42_codetable.md R165, R166) -/

/-- The symbols with a code are those of the leaves: a path leads to every leaf. -/
theorem TreeOk.isSome_entry_treeTable_iff {ns : List Node} (h : TreeOk ns) {s : Byte} :
    (entry (treeTable ns) s).isSome = true ↔ s ∈ ns.filterMap Node.sym := by
  rw [Option.isSome_iff_exists, List.mem_filterMap]
  constructor
  · rintro ⟨c, hc⟩
    obtain ⟨f, hroot, -⟩ | ⟨-, -, hp⟩ := entry_treeTable hc
    · exact ⟨_, List.mem_of_getElem? hroot, rfl⟩
    · obtain ⟨j, x, -, hx, hxs⟩ := symbolAtPath_eq_some_iff.1 hp
      exact ⟨x, List.mem_of_getElem? hx, hxs⟩
  · rintro ⟨x, hx, hxs⟩
    obtain ⟨k, hk⟩ := List.getElem?_of_mem hx
    obtain ⟨p, hp⟩ := h.exists_path (List.getElem?_eq_some_iff.1 hk).1
    exact h.exists_code_of_path (symbolAtPath_eq_some_iff.2 ⟨k, x, hp, hk, hxs⟩)

theorem mem_sym_buildNodes_iff {f : Table Word} (hf : freqTotal f < 2 ^ 32) {s : Byte} :
    s ∈ (buildNodes f).filterMap Node.sym ↔ entry f s ≠ 0#32 := by
  obtain ⟨h, -⟩ := mergeInv_mergeAll hf
  obtain ⟨ms, hms, hint⟩ := h.leavesFirst
  rw [buildNodes, hms, List.mem_filterMap]
  constructor
  · rintro ⟨x, hx, hxs⟩
    rcases List.mem_append.1 hx with hx | hx
    · obtain ⟨s', rfl, hne⟩ := eq_leaf_of_mem_leaves hx
      obtain rfl := Option.some.inj hxs
      exact hne
    · obtain ⟨g, l, r, rfl⟩ := hint x hx
      cases hxs
  · intro hne
    refine ⟨.leaf s (entry f s), List.mem_append_left _ ?_, rfl⟩
    rw [leaves_eq_map]
    exact List.mem_map_of_mem (List.mem_filter.2 ⟨mem_allSymbols s, bne_iff_ne.2 hne⟩)

theorem tableOfFreq_eq {f : Table Word} (hf : freqTotal f < 2 ^ 32) : tableOfFreq f = treeTable (buildNodes f) := by
  rw [tableOfFreq, buildRoot_eq hf, treeTable]

theorem isSome_entry_tableOfFreq_iff {f : Table Word} (hf : freqTotal f < 2 ^ 32) (s : Byte) :
    (entry (tableOfFreq f) s).isSome = true ↔ entry f s ≠ 0#32 := by
  rw [tableOfFreq_eq hf, (treeOk_buildNodes hf).isSome_entry_treeTable_iff, mem_sym_buildNodes_iff hf]

/-- There are as many codes as symbols with one. -/
theorem validCodes_length (t : Table (Option Bits)) :
    (validCodes t).length = allSymbols.countP fun s => (entry t s).isSome := by
  simp only [validCodes_eq, List.length_filterMap_eq_countP, Option.isSome_map]

theorem symbolCount_eq_countP (f : Table Word) :
    symbolCount f = allSymbols.countP fun s => entry f s != 0#32 := by
  rw [symbolCount, toList_eq_map_entry, List.countP_map]
  rfl

/-- Settles O31: the codes belong to the leaves, one for each entry, and a path has at most one edge for each Internal
node. -/
theorem everySymbolOfTheTableGetsACode : Obligations.EverySymbolOfTheTableGetsACode := by
  unfold Obligations.EverySymbolOfTheTableGetsACode
  refine fun f hf => ⟨isSome_entry_tableOfFreq_iff hf, ?_, fun s c hc => ?_⟩
  · rw [validCodes_length, symbolCount_eq_countP]
    exact List.countP_congr fun s _ => (isSome_entry_tableOfFreq_iff hf s).trans bne_iff_ne.symm
  · rw [tableOfFreq_eq hf] at hc
    obtain ⟨hpos, hle⟩ := (treeOk_buildNodes hf).codeLength_le hc
    rw [leafCount_buildNodes hf] at hle
    have hn := symbolCount_le f
    exact ⟨hpos, by omega, hle⟩

/-! ### After DERIVE `rev` is a function (42_codetable.md R160, R164, 10_state.md R38) -/

/-- Where no code begins another symbol's, `rev` gives the symbol that has the code. -/
theorem rev_eq_some_iff {t : Table (Option Bits)}
    (h : ∀ x y c d, x ≠ y → entry t x = some c → entry t y = some d → ¬ c <+: d) {c : Bits} {x : Byte} :
    rev t c = some x ↔ entry t x = some c := by
  have hhas : ∀ y, rev t c = some y → entry t y = some c := by
    intro y hy
    rw [rev_eq] at hy
    exact eq_of_beq (List.find?_some (p := fun x => entry t x == some c) hy)
  refine ⟨hhas x, fun hx => ?_⟩
  have hfound : (rev t c).isSome = true := by
    rw [rev_eq, List.find?_isSome]
    exact ⟨x, mem_allSymbols x, beq_iff_eq.2 hx⟩
  obtain ⟨y, hy⟩ := Option.isSome_iff_exists.1 hfound
  obtain rfl : x = y := by
    by_contra hxy
    exact h x y c c hxy hx (hhas y hy) (List.prefix_refl c)
  exact hy

/-- BUILD's work leaves NODE, NODE_CNT and ROOT of one tree. -/
theorem nodesOk_buildStage {s : State} (hf : freqTotal s.freq < 2 ^ 32) : NodesOk (buildStage s) := by
  have htree := treeOk_buildNodes hf
  have hlt := htree.length_lt
  refine ⟨htree, toNat_ofNat_word (by omega), ?_⟩
  rw [buildStage, setPhase_root, writeTree_root, buildRoot_eq hf]
  exact toNat_ofNat_word (by omega)

/-- After the stages of COMPRESS CODE is the table of the tree of the input. -/
theorem compressStages_code (s : State) :
    (compressStages s).code = treeTable (buildNodes (analyze (inputBytes (trimStage s)))) := by
  have hlen := inputBytes_length_lt (trimStage s)
  exact derivedTable_eq (nodesOk_buildStage ((freqTotal_analyze hlen).trans_lt hlen))

theorem finishOut_code (r : Except Raise Produced) (p : Phase) (s : State) : (finishOut r p s).code = s.code := by
  obtain ⟨o, -, hfin⟩ | ⟨e, -, hfin⟩ := finishOut_cases r p s
  all_goals rw [hfin]; rfl

/-- DERIVE in phase TreeBuilt, on a NODE that is a tree. -/
theorem exec_derive_eq {s : State} (h : NodesOk s) (hp : s.phase = .treeBuilt) :
    exec .derive s = .next { s with
      code := treeTable s.node, tv := true, phase := .tableReady, err := .ok, errInfo := 0#32 } := by
  rw [exec_derive_legal hp, ← derivedTable_eq h]
  rfl

/-- DERIVE and COMPRESS leave the table of some tree in CODE. -/
theorem exists_code_eq_treeTable {s t : State}
    (h : (NodesOk s ∧ s.phase = .treeBuilt ∧ exec .derive s = .next t) ∨ exec .compress s = .next t) :
    ∃ ns, t.code = treeTable ns := by
  obtain ⟨hnodes, hp, ht⟩ | ht := h
  · rw [exec_derive_eq hnodes hp] at ht
    injection ht with ht
    exact ⟨s.node, by rw [← ht]⟩
  · rw [exec_compress] at ht
    injection ht with ht
    exact ⟨_, by rw [← ht, finishOut_code, compressStages_code]⟩

/-- Settles O30: CODE is then the table of a tree, in which no code begins another. -/
theorem derivedCodesArePrefixFree : Obligations.DerivedCodesArePrefixFree := by
  unfold Obligations.DerivedCodesArePrefixFree
  intro s t h
  obtain ⟨ns, hns⟩ := exists_code_eq_treeTable h
  rw [hns]
  exact ⟨fun x y c d hxy hc hd => ⟨treeTable_prefixFree hxy hc hd, treeTable_prefixFree hxy.symm hd hc⟩,
    fun c x => rev_eq_some_iff fun x y c d => treeTable_prefixFree⟩

/-- Settles O28: DERIVE runs its work in its phase, and the derived table is that of NODE. -/
theorem deriveCompletesInPhaseTreeBuilt : Obligations.DeriveCompletesInPhaseTreeBuilt := by
  unfold Obligations.DeriveCompletesInPhaseTreeBuilt
  exact fun s => exec_derive_eq

/-! ### The tables of a staged compression (45_facade.md R221) -/

/-- Outside a staged compression with a tree nothing is claimed of the tables. -/
theorem stagesAgree_of_phase {s : State} (h : s.phase ∈ [Phase.idle, .analyzed, .unpacked]) : StagesAgree s := by
  simp only [List.mem_cons, List.not_mem_nil, or_false] at h
  rcases h with h | h | h
  all_goals simp [StagesAgree, h]

/-- BUILD's work makes NODE, NODE_CNT and ROOT those of FREQ. -/
theorem stagesAgree_buildStage (s : State) : StagesAgree (buildStage s) :=
  ⟨fun _ => ⟨rfl, rfl, rfl⟩, by simp [buildStage]⟩

/-- DERIVE's work keeps the tree and makes CODE its table. -/
theorem StagesAgree.after_deriveStage {s : State} (h : StagesAgree s) (hp : s.phase = .treeBuilt) :
    StagesAgree (deriveStage s) := by
  obtain ⟨htree, -⟩ := h
  exact ⟨fun _ => htree (.inl hp), fun _ => rfl⟩

theorem stagesAgree_compressStages (s : State) : StagesAgree (compressStages s) :=
  (stagesAgree_buildStage _).after_deriveStage rfl

/-- PACK's work leaves the tables, and goes from TableReady to Packed when it succeeds. -/
theorem StagesAgree.after_finishPack {s : State} (h : StagesAgree s) (hp : s.phase = .tableReady)
    (r : Except Raise Produced) : StagesAgree (finishOut r .packed s) := by
  obtain ⟨o, -, hfin⟩ | ⟨e, -, hfin⟩ := finishOut_cases r .packed s
  · rw [hfin]
    obtain ⟨htree, hcode⟩ := h
    exact ⟨fun _ => htree (.inr (.inl hp)), fun _ => hcode (.inl hp)⟩
  · rw [hfin]
    exact h

/-- DECOMPRESS's work leaves the tables and the phase, or ends the staged compression. -/
theorem StagesAgree.after_finishUnpack {s : State} (h : StagesAgree s) (r : Except Raise Produced) :
    StagesAgree (finishOut r .unpacked s) := by
  obtain ⟨o, -, hfin⟩ | ⟨e, -, hfin⟩ := finishOut_cases r .unpacked s
  · rw [hfin]
    exact stagesAgree_of_phase (by simp)
  · rw [hfin]
    exact h

theorem StagesAgree.after_exec {i : Instr} {s t : State} (h : StagesAgree s) (he : exec i s = .next t) :
    StagesAgree t := by
  obtain ⟨-, ht⟩ | ⟨-, ht⟩ | ⟨-, -, ht⟩ | ⟨-, -, ht⟩ | ⟨-, hp, ht⟩ | ⟨-, -, ht⟩ | ⟨-, hp, ht⟩ | ⟨-, -, ht⟩ | ⟨-, ht⟩ |
    ⟨-, -, ht⟩ | ⟨-, -, ht⟩ | ⟨-, ht⟩ := exec_cases he
  all_goals
    injection ht with ht
    subst ht
  · exact h
  · exact stagesAgree_of_phase (by simp [analyzeStage])
  · exact stagesAgree_buildStage s
  · exact h
  · exact h.after_deriveStage hp
  · exact h
  · exact h.after_finishPack hp _
  · exact h
  · exact (stagesAgree_compressStages s).after_finishPack rfl _
  · exact h.after_finishUnpack _
  · exact h
  · exact stagesAgree_of_phase (by simp)

/-- A host access leaves the tables and the phase; a reset ends the staged compression. -/
theorem StagesAgree.after_serveEvent {s : State} (h : StagesAgree s) (e : HostEvent) :
    StagesAgree (serveEvent e s) := by
  cases e with
  | read off w =>
    obtain ⟨d, hs⟩ | ⟨v, hs⟩ | hs := serveRead_cases off w s
    all_goals rw [serveEvent, hs]; exact h
  | write off d =>
    obtain ⟨v, -, -, -, hs⟩ | ⟨i, v, -, -, hs⟩ | hs := serveWrite_cases off d s
    all_goals rw [serveEvent, hs]; exact h
  | reset => exact stagesAgree_of_phase (by simp [serveEvent])

theorem StagesAgree.after_step {s t : State} (h : StagesAgree s) (hs : step s = .next t) : StagesAgree t := by
  obtain ⟨-, ht⟩ | ⟨w, rest, i, -, -, ht⟩ | ⟨w, rest, -, -, ht⟩ | ⟨e, rest, -, -, ht⟩ := step_cases hs
  · injection ht with ht
    exact ht ▸ h
  · exact StagesAgree.after_exec (s := respond .done (popHost rest s)) h ht.symm
  · injection ht with ht
    rw [ht]
    exact h
  · injection ht with ht
    exact ht ▸ StagesAgree.after_serveEvent (s := popHost rest s) h e

/-- Settles O8: only BUILD writes the tree, only DERIVE's work the table, and both leave them in agreement. -/
theorem stagedTablesStayTogether : Obligations.StagedTablesStayTogether := by
  unfold Obligations.StagedTablesStayTogether
  exact ⟨fun _ => stagesAgree_of_phase (by simp [State.resetWith]), fun _ _ h => h.after_step⟩

end Sys2Proof.Machine

/-! ## PACK: encode, pad and toBytes (43_pack.md) -/

namespace Sys2Proof.Machine

open Sys2Proof

/-! ### The function `encode` (43_pack.md R180, R181) -/

/-- When every symbol has a code, `encode` writes the codes one after the other. -/
theorem encodeFrom_of_coded {t : Table (Option Bits)} {b : List Byte} (h : ∀ x ∈ b, entry t x ≠ none) (i : Nat) :
    encodeFrom t i b = .ok (b.flatMap fun x => (entry t x).getD []) := by
  induction b generalizing i with
  | nil => rfl
  | cons x b ih =>
    obtain ⟨hx, hb⟩ := List.forall_mem_cons.1 h
    obtain ⟨c, hc⟩ := Option.ne_none_iff_exists'.1 hx
    rw [encodeFrom, hc, ih hb (i + 1), List.flatMap_cons, hc, Option.getD_some]

/-- `encode` reports the least index whose symbol has no code. -/
theorem encodeFrom_of_missing {t : Table (Option Bits)} {b : List Byte} {k : Nat} {x : Byte} (hk : b[k]? = some x)
    (hx : entry t x = none) (hlt : ∀ j < k, ∀ y, b[j]? = some y → entry t y ≠ none) (i : Nat) :
    encodeFrom t i b = .error ⟨.missingCode, BitVec.ofNat 32 (i + k)⟩ := by
  induction b generalizing i k with
  | nil => cases hk
  | cons y b ih =>
    cases k with
    | zero =>
      obtain rfl := Option.some.inj hk
      rw [encodeFrom, hx]
      rfl
    | succ k =>
      obtain ⟨c, hc⟩ := Option.ne_none_iff_exists'.1 (hlt 0 k.succ_pos y rfl)
      have hrest := ih hk (fun j hj => hlt (j + 1) (Nat.succ_lt_succ hj)) (i + 1)
      rw [encodeFrom, hc, hrest, Nat.add_right_comm, Nat.add_assoc]

/-- An input that `encode` accepts has a code for every symbol. -/
theorem coded_of_encodeFrom {t : Table (Option Bits)} {i : Nat} {b : List Byte} {d : Bits}
    (h : encodeFrom t i b = .ok d) : ∀ x ∈ b, entry t x ≠ none := by
  fun_induction encodeFrom t i b generalizing d with
  | case1 => simp
  | case2 => cases h
  | case3 => cases h
  | case4 i x b c hc r hr ih =>
    exact List.forall_mem_cons.2 ⟨by rw [hc]; exact Option.some_ne_none c, ih hr⟩

theorem encodeBits_length {t : Table (Option Bits)} {b : List Byte} {d : Bits} (h : encodeBits t b = .ok d) :
    d.length = encodedLength t b := by
  rw [encodeBits, encodeFrom_of_coded (coded_of_encodeFrom h)] at h
  cases h
  rw [List.length_flatMap, encodedLength]
  refine congrArg List.sum (List.map_congr_left fun x _ => ?_)
  rw [codeLength]
  cases entry t x with
  | none => rfl
  | some c => rfl

/-- Every code has a bit, so there are at least as many bits as symbols. -/
theorem length_le_encodedLength {t : Table (Option Bits)} (ht : CodesOk t) {b : List Byte}
    (h : ∀ x ∈ b, entry t x ≠ none) : b.length ≤ encodedLength t b := by
  have hone : ∀ n ∈ b.map (codeLength t), 1 ≤ n := by
    refine List.forall_mem_map.2 fun x hx => ?_
    obtain ⟨c, hc⟩ := Option.ne_none_iff_exists'.1 (h x hx)
    obtain ⟨-, hlen⟩ := ht
    obtain ⟨hpos, -⟩ := hlen (x, c) (mem_validCodes.2 hc)
    rwa [codeLength, hc]
  simpa only [List.length_map, encodedLength] using List.length_le_sum_of_one_le _ hone

/-- A sum over the input, collected by symbol. -/
theorem sum_map_eq_sum_count_mul (b : List Byte) (g : Byte → Nat) :
    (b.map g).sum = (allSymbols.map fun s => b.count s * g s).sum := by
  calc (b.map g).sum
    _ = ∑ s ∈ b.toFinset, b.count s * g s := by
      simpa only [smul_eq_mul] using Finset.sum_list_map_count b g
    _ = ∑ s ∈ allSymbols.toFinset, b.count s * g s := by
      refine Finset.sum_subset (fun s _ => List.mem_toFinset.2 (mem_allSymbols s)) fun s _ hs => ?_
      rw [List.count_eq_zero_of_not_mem (mt List.mem_toFinset.2 hs), Nat.zero_mul]
    _ = (allSymbols.map fun s => b.count s * g s).sum := List.sum_toFinset _ allSymbols_nodup

/-- Settles O33: the encoded bit-string is the codes one after the other, each of 1 to 255 bits. -/
theorem encodedLengthIsTheSumOfCodeLengths : Obligations.EncodedLengthIsTheSumOfCodeLengths := by
  unfold Obligations.EncodedLengthIsTheSumOfCodeLengths
  intro t b d ht h
  have hlen := encodeBits_length h
  have hlower : b.length ≤ d.length := hlen ▸ length_le_encodedLength ht (coded_of_encodeFrom h)
  have hupper := encodeFrom_length_le ht h
  refine ⟨hlen, hlower, hupper, by omega, ?_, fun hb _ => ?_⟩
  · rw [← List.length_eq_zero_iff, ← List.length_eq_zero_iff]
    omega
  · simp only [toNat_entry_analyze hb]
    rw [hlen, encodedLength, sum_map_eq_sum_count_mul]

/-! ### The function `pad` (43_pack.md R182, R183) -/

theorem extra_le (p : Bool) (n : Nat) : extra p n ≤ 8 := by
  unfold extra
  split_ifs
  all_goals omega

/-- The header byte holds the padding count. -/
theorem toNat_ofNat_extra (p : Bool) (n : Nat) : (BitVec.ofNat 8 (extra p n)).toNat = extra p n := by
  have := extra_le p n
  rw [BitVec.toNat_ofNat, Nat.mod_eq_of_lt (by omega)]

theorem add_extra_mod_eight (p : Bool) (n : Nat) : (n + extra p n) % 8 = 0 := by
  unfold extra
  split_ifs
  all_goals omega

/-- Without PAD8 the payload has the least number of bytes that hold the bits. -/
theorem payload_of_not_pad8 (n : Nat) : (n + extra false n) / 8 = (n + 7) / 8 := by
  simp only [extra, Bool.false_eq_true, if_false]
  split_ifs
  all_goals omega

/-- With PAD8 a payload that is not empty always has padding. -/
theorem payload_of_pad8 {n : Nat} (h : 0 < n) : (n + extra true n) / 8 = n / 8 + 1 := by
  rw [extra, if_neg h.ne', if_pos rfl]
  omega

/-- `pad` as a header byte in front of a payload. -/
theorem padBits_eq (p : Bool) (b : Bits) : padBits p b =
    bin8 (BitVec.ofNat 8 (extra p b.length)) ++ (b ++ List.replicate (extra p b.length) false) :=
  List.append_assoc _ _ _

theorem drop_eight_bin8_append (x : Byte) (r : Bits) : (bin8 x ++ r).drop 8 = r := rfl

theorem take_eight_bin8_append (x : Byte) (r : Bits) : (bin8 x ++ r).take 8 = bin8 x := rfl

/-- Settles O34: `pad` is three pieces of known lengths, and the rest is arithmetic about the padding count. -/
theorem padAppendsWhatItsHeaderSays : Obligations.PadAppendsWhatItsHeaderSays := by
  unfold Obligations.PadAppendsWhatItsHeaderSays
  intro p b
  refine ⟨?_, add_extra_mod_eight p _, ?_, ?_, ?_, ?_, ?_, ?_, extra_le p _⟩
  · simp only [padBits, List.length_append, bin8_length, List.length_replicate]
  · rw [padBits_eq, take_eight_bin8_append, val_bin8, toNat_ofNat_extra]
  · rw [padBits_eq, drop_eight_bin8_append, List.take_left]
  · rw [padBits_eq, ← List.drop_drop, drop_eight_bin8_append, List.drop_left]
  · rintro rfl
    exact payload_of_not_pad8 _
  · rintro rfl
    exact payload_of_pad8
  · intro h
    rw [h, extra, if_pos rfl]

/-! ### The function `toBytes` (43_pack.md R184) -/

theorem toBytes_fromBytes (a : List Byte) : toBytes (fromBytes a) = .ok a := by
  induction a with
  | nil => rfl
  | cons x a ih => exact toBytes_bin8_append x ih

theorem exists_bin8_eq {c : Bits} (h : c.length = 8) : ∃ x, bin8 x = c :=
  match c, h with
  | [b7, b6, b5, b4, b3, b2, b1, b0], _ => ⟨_, bin8_byteOfBits b7 b6 b5 b4 b3 b2 b1 b0⟩

/-- Whole bytes of bits are the bits of a byte sequence. -/
theorem exists_fromBytes_eq {p : Bits} {m : Nat} (h : p.length = 8 * m) : ∃ a, fromBytes a = p := by
  induction m generalizing p with
  | zero => exact ⟨[], (List.length_eq_zero_iff.1 h).symm⟩
  | succ m ih =>
    obtain ⟨x, hx⟩ := exists_bin8_eq (c := p.take 8) (by rw [List.length_take]; omega)
    obtain ⟨a, ha⟩ := ih (p := p.drop 8) (by rw [List.length_drop]; omega)
    exact ⟨x :: a, by rw [fromBytes_cons, hx, ha, List.take_append_drop]⟩

theorem toBytes_of_length_mod_ne {p : Bits} (h : p.length % 8 ≠ 0) : toBytes p = .error ⟨.format, 4#32⟩ := by
  fun_induction toBytes p with
  | case1 => exact absurd rfl h
  | case2 b7 b6 b5 b4 b3 b2 b1 b0 rest e he ih =>
    rw [← he]
    exact ih (mt (Nat.add_mod_right _ 8).trans h)
  | case3 b7 b6 b5 b4 b3 b2 b1 b0 rest a ha ih =>
    rw [ih (mt (Nat.add_mod_right _ 8).trans h)] at ha
    cases ha
  | case4 => rfl

theorem getElem?_bin8 (x : Byte) {r : Nat} (hr : r ≤ 7) : (bin8 x)[r]? = some (x.getLsbD (7 - r)) := by
  interval_cases r
  all_goals rfl

/-- Byte `j` shows the bits from `8*j` on, the first at the top. -/
theorem getElem?_fromBytes {a : List Byte} {j r : Nat} {x : Byte} (hr : r ≤ 7) (hx : a[j]? = some x) :
    (fromBytes a)[8 * j + r]? = some (x.getLsbD (7 - r)) := by
  induction a generalizing j with
  | nil => cases hx
  | cons y a ih =>
    rw [fromBytes_cons]
    cases j with
    | zero =>
      obtain rfl := Option.some.inj hx
      rw [Nat.mul_zero, Nat.zero_add, List.getElem?_append_left (by rw [bin8_length]; omega), getElem?_bin8 y hr]
    | succ j =>
      have hindex : 8 * (j + 1) + r - 8 = 8 * j + r := by omega
      rw [List.getElem?_append_right (by rw [bin8_length]; omega), bin8_length, hindex]
      exact ih hx

/-- `toBytes` never fails on a result of `pad`: it gives the header byte and the bytes of the payload. -/
theorem toBytes_padBits (p : Bool) (b : Bits) :
    ∃ a, fromBytes a = b ++ List.replicate (extra p b.length) false ∧
      toBytes (padBits p b) = .ok (BitVec.ofNat 8 (extra p b.length) :: a) := by
  obtain ⟨m, hm⟩ := Nat.dvd_of_mod_eq_zero (add_extra_mod_eight p b.length)
  obtain ⟨a, ha⟩ := exists_fromBytes_eq (p := b ++ List.replicate (extra p b.length) false) (m := m)
    (by rw [List.length_append, List.length_replicate, hm])
  refine ⟨a, ha, ?_⟩
  rw [padBits_eq, ← ha]
  exact toBytes_bin8_append _ (toBytes_fromBytes a)

/-- Settles O35: whole bytes of bits are the bits of some byte sequence, and `toBytes` gives that sequence back. -/
theorem toBytesPacksMostSignificantBitFirst : Obligations.ToBytesPacksMostSignificantBitFirst := by
  unfold Obligations.ToBytesPacksMostSignificantBitFirst
  refine ⟨fun p hp => ?_, fun p => toBytes_of_length_mod_ne, fun m b => ?_⟩
  · obtain ⟨m, hm⟩ := Nat.dvd_of_mod_eq_zero hp
    obtain ⟨a, rfl⟩ := exists_fromBytes_eq hm
    refine ⟨a, toBytes_fromBytes a, ?_, fun j r x => getElem?_fromBytes⟩
    rw [fromBytes_length, Nat.mul_div_cancel_left _ (by omega)]
  · obtain ⟨a, -, ha⟩ := toBytes_padBits m b
    exact ⟨_, ha, rfl⟩

/-! ### PACK (43_pack.md R185, R187) -/

/-- When every symbol has a code, what PACK produces is the artifact, checked against OUT_CAP. -/
theorem packProduce_of_coded {s : State} (h : ∀ x ∈ inputBytes s, entry s.code x ≠ none) :
    ∃ a, packBytes s.cfg.pad8 s.code (inputBytes s) = .ok a ∧
      a.length = artifactLength s.cfg.pad8 (encodedLength s.code (inputBytes s)) ∧
      packProduce s = fitOut s.cfg.outCap ⟨a, encodedLength s.code (inputBytes s),
        extra s.cfg.pad8 (encodedLength s.code (inputBytes s))⟩ := by
  obtain ⟨d, hd⟩ : ∃ d, encodeBits s.code (inputBytes s) = .ok d := ⟨_, encodeFrom_of_coded h 0⟩
  obtain ⟨a, hbits, ha⟩ := toBytes_padBits s.cfg.pad8 d
  have hpayload : 8 * a.length = d.length + extra s.cfg.pad8 d.length := by
    rw [← fromBytes_length, hbits, List.length_append, List.length_replicate]
  rw [← encodeBits_length hd]
  refine ⟨_, by rw [packBytes, hd]; exact ha, ?_, ?_⟩
  · rw [List.length_cons, artifactLength, ← hpayload]
    omega
  · simp only [packProduce, hd, ha, List.headD_cons, toNat_ofNat_extra]

/-- The error entry of PACK when `encode` finds a symbol without a code. -/
theorem packProduce_of_missing {s : State} {i : Nat} {x : Byte} (hi : (inputBytes s)[i]? = some x)
    (hx : entry s.code x = none) (hlt : ∀ j < i, ∀ y, (inputBytes s)[j]? = some y → entry s.code y ≠ none) :
    packProduce s = .error ⟨.missingCode, BitVec.ofNat 32 i⟩ := by
  have herr : encodeBits s.code (inputBytes s) = .error ⟨.missingCode, BitVec.ofNat 32 i⟩ := by
    rw [encodeBits, encodeFrom_of_missing hi hx hlt, Nat.zero_add]
  rw [packProduce, herr]

theorem fitOut_of_le {n : Nat} {p : Produced} (h : p.bytes.length ≤ n) : fitOut n p = .ok p :=
  if_neg (Nat.not_lt.2 h)

/-- Settles O36: PACK's work is then the artifact, and it passes the check against OUT_CAP. -/
theorem packWritesTheArtifact : Obligations.PackWritesTheArtifact := by
  unfold Obligations.PackWritesTheArtifact
  intro s hp hcoded hfit
  obtain ⟨a, hpack, hlen, hprod⟩ := packProduce_of_coded hcoded
  rw [fitOut_of_le (hlen.trans_le hfit)] at hprod
  refine ⟨a, hpack, hlen, ?_⟩
  rw [exec_pack_legal hp, hprod]
  rfl

/-- Settles O37: `encode` stops at the least such index, before OUT_CAP is looked at. -/
theorem packReportsTheLeastMissingIndex : Obligations.PackReportsTheLeastMissingIndex := by
  unfold Obligations.PackReportsTheLeastMissingIndex
  intro s i x hp hi hx hlt
  rw [exec_pack_legal hp, packProduce_of_missing hi hx hlt]
  rfl

end Sys2Proof.Machine

/-! ## DECOMPRESS: fromBytes, unpad and decode (44_unpack.md) -/

namespace Sys2Proof.Machine

open Sys2Proof

/-! ### What `encode` accepts, symbol by symbol (43_pack.md R180) -/

@[simp] theorem encodeBits_nil (t : Table (Option Bits)) : encodeBits t [] = .ok [] := rfl

theorem encodeBits_eq_ok_iff {t : Table (Option Bits)} {b : List Byte} {d : Bits} :
    encodeBits t b = .ok d ↔ (∀ x ∈ b, entry t x ≠ none) ∧ b.flatMap (fun x => (entry t x).getD []) = d := by
  constructor
  · intro h
    have hcoded := coded_of_encodeFrom h
    rw [encodeBits, encodeFrom_of_coded hcoded] at h
    exact ⟨hcoded, Except.ok.inj h⟩
  · rintro ⟨hcoded, rfl⟩
    exact encodeFrom_of_coded hcoded 0

theorem encodeBits_cons_eq_ok_iff {t : Table (Option Bits)} {x : Byte} {b : List Byte} {d : Bits} :
    encodeBits t (x :: b) = .ok d ↔ ∃ c r, entry t x = some c ∧ encodeBits t b = .ok r ∧ c ++ r = d := by
  simp only [encodeBits_eq_ok_iff, List.forall_mem_cons, List.flatMap_cons]
  constructor
  · rintro ⟨⟨hx, hb⟩, rfl⟩
    obtain ⟨c, hc⟩ := Option.ne_none_iff_exists'.1 hx
    exact ⟨c, _, hc, ⟨hb, rfl⟩, by rw [hc, Option.getD_some]⟩
  · rintro ⟨c, r, hc, ⟨hb, rfl⟩, rfl⟩
    exact ⟨⟨by rw [hc]; exact Option.some_ne_none c, hb⟩, by rw [hc, Option.getD_some]⟩

/-! ### The scan of `decode` (44_unpack.md R202) -/

theorem entry_of_rev {t : Table (Option Bits)} {c : Bits} {x : Byte} (h : rev t c = some x) : entry t x = some c := by
  rw [rev_eq] at h
  exact eq_of_beq (List.find?_some (p := fun x => entry t x == some c) h)

/-- A match emits its symbol and empties the candidate. -/
theorem decodeScan_of_rev_some {t : Table (Option Bits)} {cand : Bits} {x : Bool} {s : Byte}
    (h : rev t (cand ++ [x]) = some s) (d : Bits) :
    decodeScan t cand (x :: d) = (decodeScan t [] d).map (s :: ·) := by
  rw [decodeScan, h]
  cases decodeScan t [] d with
  | error e => rfl
  | ok out => rfl

/-- Without a match the bit joins the candidate. -/
theorem decodeScan_of_rev_none {t : Table (Option Bits)} {cand : Bits} {x : Bool} (h : rev t (cand ++ [x]) = none)
    (d : Bits) : decodeScan t cand (x :: d) = decodeScan t (cand ++ [x]) d := by
  rw [decodeScan, h]

/-- The only error of the scan is a candidate left at the end. -/
theorem decodeScan_eq_error {t : Table (Option Bits)} {cand d : Bits} {e : Raise}
    (h : decodeScan t cand d = .error e) : e = ⟨.format, 1#32⟩ := by
  fun_induction decodeScan t cand d with
  | case1 => cases h
  | case2 =>
    cases h
    rfl
  | case3 cand x d hnone ih => exact ih h
  | case4 cand x d s hs e' he ih =>
    cases h
    exact ih he
  | case5 => cases h

/-- What the scan emits is encoded as the candidate and the bits it read, against any table. -/
theorem encodeBits_of_decodeScan {t : Table (Option Bits)} {cand d : Bits} {b : List Byte}
    (h : decodeScan t cand d = .ok b) : encodeBits t b = .ok (cand ++ d) := by
  fun_induction decodeScan t cand d generalizing b with
  | case1 =>
    cases h
    rfl
  | case2 => cases h
  | case3 cand x d hnone ih =>
    rw [List.append_cons]
    exact ih h
  | case4 => cases h
  | case5 cand x d s hs out hout ih =>
    cases h
    rw [List.append_cons]
    exact encodeBits_cons_eq_ok_iff.2 ⟨_, d, entry_of_rev hs, ih hout, rfl⟩

/-! ### Against a prefix-free table `decode` is the inverse of `encode` (44_unpack.md R203) -/

section PrefixFree

variable {t : Table (Option Bits)}

/-- Two codes of which one begins the other belong to one symbol. -/
theorem CodesOk.symbol_unique (ht : CodesOk t) {x y : Byte} {c d : Bits} (hx : entry t x = some c)
    (hy : entry t y = some d) (hcd : c <+: d) : x = y := by
  obtain ⟨hpair, -⟩ := ht
  obtain ⟨i, hi⟩ := List.getElem?_of_mem (mem_validCodes (p := (x, c)).2 hx)
  obtain ⟨j, hj⟩ := List.getElem?_of_mem (mem_validCodes (p := (y, d)).2 hy)
  obtain rfl := index_eq_of_pairwise hpair hi hj (fun h => h.1 hcd) (fun h => h.2 hcd)
  exact congrArg Prod.fst (Option.some.inj (hi.symm.trans hj))

/-- No code is a proper initial part of a code. -/
theorem CodesOk.eq_of_prefix (ht : CodesOk t) {x y : Byte} {c d : Bits} (hx : entry t x = some c)
    (hy : entry t y = some d) (hcd : c <+: d) : c = d := by
  obtain rfl := ht.symbol_unique hx hy hcd
  exact Option.some.inj (hx.symm.trans hy)

theorem CodesOk.ne_nil (ht : CodesOk t) {x : Byte} {c : Bits} (hx : entry t x = some c) : c ≠ [] := by
  obtain ⟨-, hlen⟩ := ht
  obtain ⟨hpos, -⟩ := hlen (x, c) (mem_validCodes.2 hx)
  exact List.length_pos_iff.1 hpos

theorem CodesOk.rev_eq_some_iff (ht : CodesOk t) {c : Bits} {x : Byte} : rev t c = some x ↔ entry t x = some c :=
  Machine.rev_eq_some_iff fun _ _ _ _ hxy hc hd hcd => hxy (ht.symbol_unique hc hd hcd)

/-- The scan reads what is left of a code to its end, no earlier candidate being a code, and emits its symbol. -/
theorem CodesOk.decodeScan_code (ht : CodesOk t) {x : Byte} {cand w : Bits} (hx : entry t x = some (cand ++ w))
    (hw : w ≠ []) (r : Bits) : decodeScan t cand (w ++ r) = (decodeScan t [] r).map (x :: ·) := by
  induction w generalizing cand with
  | nil => exact absurd rfl hw
  | cons y w ih =>
    rw [List.append_cons] at hx
    cases w with
    | nil =>
      rw [List.append_nil] at hx
      exact decodeScan_of_rev_some (ht.rev_eq_some_iff.2 hx) r
    | cons z w =>
      have hnone : rev t (cand ++ [y]) = none := by
        refine Option.eq_none_iff_forall_ne_some.2 fun x' hx' => ?_
        have hwhole := ht.eq_of_prefix (entry_of_rev hx') hx (List.prefix_append _ _)
        exact absurd (List.self_eq_append_right.1 hwhole) (List.cons_ne_nil z w)
      rw [List.cons_append, decodeScan_of_rev_none hnone]
      exact ih hx (List.cons_ne_nil z w)

/-- `decode` gives the symbols of an encoding and goes on with the bits behind it (R203 (c)). -/
theorem CodesOk.decodeBits_append (ht : CodesOk t) {b : List Byte} {d : Bits} (h : encodeBits t b = .ok d) (r : Bits) :
    decodeBits t (d ++ r) = (decodeBits t r).map (b ++ ·) := by
  induction b generalizing d with
  | nil =>
    cases h
    rw [List.nil_append]
    cases decodeBits t r with
    | error e => rfl
    | ok out => rfl
  | cons x b ih =>
    obtain ⟨c, d, hc, hd, rfl⟩ := encodeBits_cons_eq_ok_iff.1 h
    have hscan := ht.decodeScan_code (cand := []) hc (ht.ne_nil hc) (d ++ r)
    rw [List.append_assoc, decodeBits, hscan, ← decodeBits, ih hd]
    cases decodeBits t r with
    | error e => rfl
    | ok out => rfl

/-- Against a prefix-free table `decode` succeeds on the encodings and on nothing else. -/
theorem CodesOk.decodeBits_eq_ok_iff (ht : CodesOk t) {b : List Byte} {d : Bits} :
    decodeBits t d = .ok b ↔ encodeBits t b = .ok d := by
  refine ⟨encodeBits_of_decodeScan, fun h => ?_⟩
  have happ := ht.decodeBits_append h []
  rw [List.append_nil] at happ
  rw [happ, decodeBits, decodeScan, if_pos rfl, Except.map, List.append_nil]

theorem CodesOk.decodeBits_fails_iff (ht : CodesOk t) {d : Bits} :
    (∃ e, decodeBits t d = .error e) ↔ ∀ b, encodeBits t b ≠ .ok d := by
  simp only [ne_eq, ← ht.decodeBits_eq_ok_iff]
  cases decodeBits t d with
  | error e => simp
  | ok out => simp

end PrefixFree

/-- Settles O41: `decode` succeeds on encodings, and `encode` on symbols that have codes. -/
theorem decodeUndoesEncode : Obligations.DecodeUndoesEncode := by
  unfold Obligations.DecodeUndoesEncode
  intro t b ht hcoded
  have henc : encodeBits t b = .ok _ := encodeFrom_of_coded hcoded 0
  refine ⟨_, henc, ht.decodeBits_eq_ok_iff.2 henc, ?_⟩
  rw [encodeBits_length henc]
  exact length_le_encodedLength ht hcoded

/-! ### When `decode` fails (44_unpack.md R203 (d)) -/

theorem map_range_getD (p : Bits) : (List.range p.length).map (fun i => p.getD i false) = p := by
  refine List.ext_getElem (by simp) fun i _ hi => ?_
  rw [List.getElem_map, List.getElem_range, List.getD_eq_getElem p false hi]

/-- Against a tree's table any bits begin with a code or are the beginning of one. -/
theorem TreeOk.exists_code_prefix {ns : List Node} (h : TreeOk ns) (hn : 2 ≤ leafCount ns) (p : Bits) :
    ∃ s c, entry (treeTable ns) s = some c ∧ (c <+: p ∨ p <+: c) := by
  obtain ⟨s, ⟨c, hc, hbits⟩, -⟩ := treeCodesAreComplete ns h hn fun i => p.getD i false
  refine ⟨s, c, hc, ?_⟩
  refine (Nat.le_total c.length p.length).imp (fun hle => ?_) fun hle => ?_
  all_goals
    have hpre := map_range_prefix (fun i => p.getD i false) hle
    rwa [← hbits, map_range_getD] at hpre

/-- The bits `p` end inside a code: some code goes on from them. -/
def EndsInsideACode (t : Table (Option Bits)) (p : Bits) : Prop :=
  p ≠ [] ∧ ∃ s c, entry t s = some c ∧ p <+: c ∧ p ≠ c

/-- Any bits are an encoding, or an encoding and then bits that end inside a code: code after code is read off the
front until none begins the rest. -/
theorem TreeOk.exists_encoding {ns : List Node} (h : TreeOk ns) (hn : 2 ≤ leafCount ns) (d : Bits) :
    ∃ b d' p, encodeBits (treeTable ns) b = .ok d' ∧ d = d' ++ p ∧ (p = [] ∨ EndsInsideACode (treeTable ns) p) := by
  induction hlen : d.length using Nat.strong_induction_on generalizing d with
  | _ n ih =>
    subst hlen
    obtain ⟨s, c, hc, ⟨r, rfl⟩ | hpre⟩ := h.exists_code_prefix hn d
    · have hpos := List.length_pos_iff.2 (h.codesOk_treeTable.ne_nil hc)
      obtain ⟨b, d', p, hb, rfl, hp⟩ := ih r.length (by rw [List.length_append]; omega) r rfl
      exact ⟨s :: b, c ++ d', p, encodeBits_cons_eq_ok_iff.2 ⟨c, d', hc, hb, rfl⟩, (List.append_assoc c d' p).symm, hp⟩
    · by_cases hdc : d = c
      · subst hdc
        exact ⟨[s], d, [], encodeBits_cons_eq_ok_iff.2 ⟨d, [], hc, rfl, List.append_nil d⟩, (List.append_nil d).symm,
          .inl rfl⟩
      · by_cases hd : d = []
        · exact ⟨[], [], d, rfl, rfl, .inl hd⟩
        · exact ⟨[], [], d, rfl, rfl, .inr ⟨hd, s, c, hc, hpre, hdc⟩⟩

/-- Bits that end inside a code are no encoding: its first code would begin that code. -/
theorem CodesOk.not_encoding_of_endsInside {t : Table (Option Bits)} (ht : CodesOk t) {p : Bits}
    (h : EndsInsideACode t p) (b : List Byte) : encodeBits t b ≠ .ok p := by
  obtain ⟨hne, s, c, hc, hpre, hpc⟩ := h
  intro hb
  cases b with
  | nil => exact hne (Except.ok.inj hb).symm
  | cons x b =>
    obtain ⟨c', r, hc', -, rfl⟩ := encodeBits_cons_eq_ok_iff.1 hb
    have hc'p : c' <+: c' ++ r := List.prefix_append c' r
    obtain rfl := ht.eq_of_prefix hc' hc (hc'p.trans hpre)
    exact hpc (hpre.eq_of_length_le hc'p.length_le)

/-- Behind an encoding `decode` fails exactly when it fails on the rest. -/
theorem CodesOk.decodeBits_append_fails_iff {t : Table (Option Bits)} (ht : CodesOk t) {b : List Byte} {d : Bits}
    (h : encodeBits t b = .ok d) (r : Bits) :
    (∃ e, decodeBits t (d ++ r) = .error e) ↔ ∃ e, decodeBits t r = .error e := by
  rw [ht.decodeBits_append h]
  cases decodeBits t r with
  | error e => exact Iff.rfl
  | ok out => simp [Except.map]

theorem TreeOk.decodeBits_fails_iff {ns : List Node} (h : TreeOk ns) (hn : 2 ≤ leafCount ns) (d : Bits) :
    (∃ e, decodeBits (treeTable ns) d = .error e) ↔
      ∃ b d' p, encodeBits (treeTable ns) b = .ok d' ∧ d = d' ++ p ∧ EndsInsideACode (treeTable ns) p := by
  have ht := h.codesOk_treeTable
  constructor
  · intro hfail
    obtain ⟨b, d', p, hb, rfl, rfl | hp⟩ := h.exists_encoding hn d
    · rw [List.append_nil] at hfail
      exact absurd hb (ht.decodeBits_fails_iff.1 hfail b)
    · exact ⟨b, d', p, hb, rfl, hp⟩
  · rintro ⟨b, d', p, hb, rfl, hp⟩
    rw [ht.decodeBits_append_fails_iff hb, ht.decodeBits_fails_iff]
    exact ht.not_encoding_of_endsInside hp

/-- A table with the code "0" for one symbol and no other code (42_codetable.md R162). -/
theorem codesOk_of_one_code {t : Table (Option Bits)} {s : Byte} (hs : entry t s = some [false])
    (ho : ∀ x, x ≠ s → entry t x = none) : CodesOk t := by
  have hsym : ∀ x c, entry t x = some c → x = s := by
    intro x c hx
    by_contra hne
    rw [ho x hne] at hx
    cases hx
  refine codesOk_of_entries (fun x y c d hxy hx hy => absurd ((hsym x c hx).trans (hsym y d hy).symm) hxy) ?_
  intro x c hx
  obtain rfl := hsym x c hx
  obtain rfl := Option.some.inj (hs.symm.trans hx)
  exact ⟨le_refl 1, by decide⟩

/-- The encodings with the one code "0" are the bit-strings of 0 bits. -/
theorem exists_encoding_one_code_iff {t : Table (Option Bits)} {s : Byte} (hs : entry t s = some [false])
    (ho : ∀ x, x ≠ s → entry t x = none) {d : Bits} : (∃ b, encodeBits t b = .ok d) ↔ true ∉ d := by
  constructor
  · rintro ⟨b, hb⟩
    obtain ⟨hcoded, rfl⟩ := encodeBits_eq_ok_iff.1 hb
    simp only [List.mem_flatMap, not_exists, not_and]
    intro x hx
    obtain rfl : x = s := by
      by_contra hne
      exact hcoded x hx (ho x hne)
    rw [hs, Option.getD_some, List.mem_singleton]
    exact Bool.noConfusion
  · intro hd
    induction d with
    | nil => exact ⟨[], rfl⟩
    | cons x d ih =>
      rw [List.mem_cons, not_or] at hd
      obtain ⟨hx, hd⟩ := hd
      obtain rfl : x = false := Bool.eq_false_of_not_eq_true (Ne.symm hx)
      obtain ⟨b, hb⟩ := ih hd
      exact ⟨s :: b, encodeBits_cons_eq_ok_iff.2 ⟨[false], d, hs, hb, rfl⟩⟩

/-- With no code only the empty sequence has an encoding. -/
theorem exists_encoding_no_code_iff {t : Table (Option Bits)} (ht : ∀ x, entry t x = none) {d : Bits} :
    (∃ b, encodeBits t b = .ok d) ↔ d = [] := by
  constructor
  · rintro ⟨b, hb⟩
    obtain ⟨hcoded, rfl⟩ := encodeBits_eq_ok_iff.1 hb
    rw [List.eq_nil_iff_forall_not_mem.2 fun x hx => hcoded x hx (ht x), List.flatMap_nil]
  · rintro rfl
    exact ⟨[], rfl⟩

/-- Settles O42: `decode` fails on what is no encoding, and the three kinds of tables have these encodings. -/
theorem decodeFailsExactlyInsideACode : Obligations.DecodeFailsExactlyInsideACode := by
  unfold Obligations.DecodeFailsExactlyInsideACode
  refine ⟨fun ns h hn d => ?_, fun t s hs ho d => ?_, fun t ht d => ?_, fun t d e => decodeScan_eq_error⟩
  · simp only [h.decodeBits_fails_iff hn, EndsInsideACode, exists_and_left]
  · rw [(codesOk_of_one_code hs ho).decodeBits_fails_iff, ← not_exists, exists_encoding_one_code_iff hs ho, not_not]
  · have hcodes : CodesOk t := codesOk_of_entries (by simp [ht]) (by simp [ht])
    rw [hcodes.decodeBits_fails_iff, ← not_exists, exists_encoding_no_code_iff ht]

/-! ### The functions `fromBytes` and `unpad` (44_unpack.md R200, R201) -/

/-- `fromBytes` undoes `toBytes`, which accepts whole bytes of bits only. -/
theorem fromBytes_of_toBytes {p : Bits} {a : List Byte} (h : toBytes p = .ok a) : fromBytes a = p := by
  by_cases hp : p.length % 8 = 0
  · obtain ⟨m, hm⟩ := Nat.dvd_of_mod_eq_zero hp
    obtain ⟨a', rfl⟩ := exists_fromBytes_eq hm
    rw [toBytes_fromBytes] at h
    rw [Except.ok.inj h]
  · rw [toBytes_of_length_mod_ne hp] at h
    cases h

/-- Settles O39: `toBytes` accepts whole bytes of bits, and `fromBytes` is its inverse. -/
theorem fromBytesInvertsToBytes : Obligations.FromBytesInvertsToBytes := by
  unfold Obligations.FromBytesInvertsToBytes
  refine ⟨fun a => ⟨fromBytes_length a, fun j r x => getElem?_fromBytes, toBytes_fromBytes a⟩, rfl, fun p hp => ?_⟩
  obtain ⟨a, ha, -⟩ := toBytesPacksMostSignificantBitFirst.1 p hp
  exact ⟨a, ha, fromBytes_of_toBytes ha⟩

theorem unpadBits_of_short {u : Bits} (h : u.length < 8) : unpadBits u = .error ⟨.format, 2#32⟩ := if_pos h

/-- `unpad` of a header byte and a remainder: the header is checked against the remainder and nothing else is. -/
theorem unpadBits_bin8_append (h : Byte) (r : Bits) : unpadBits (bin8 h ++ r) =
    if r.length < h.toNat then .error ⟨.format, 3#32⟩ else .ok (r.take (r.length - h.toNat), h.toNat) := by
  have hlen : ¬ (bin8 h ++ r).length < 8 := by
    rw [List.length_append, bin8_length]
    omega
  rw [unpadBits, if_neg hlen, take_eight_bin8_append, drop_eight_bin8_append, val_bin8]

theorem unpadBits_of_fits {h : Byte} {d r : Bits} (hr : r.length = h.toNat) :
    unpadBits (bin8 h ++ (d ++ r)) = .ok (d, h.toNat) := by
  have hfits : ¬ (d ++ r).length < h.toNat := by
    rw [List.length_append]
    omega
  rw [unpadBits_bin8_append, if_neg hfits, List.length_append, hr, Nat.add_sub_cancel, List.take_left]

theorem unpadBits_padBits (m : Bool) (b : Bits) : unpadBits (padBits m b) = .ok (b, extra m b.length) := by
  rw [padBits_eq, unpadBits_of_fits (by rw [List.length_replicate, toNat_ofNat_extra]), toNat_ofNat_extra]

/-- Settles O40: `unpad` looks at the length and the header only, and `pad` puts its count into the header. -/
theorem unpadChecksTheHeaderAndUndoesPad : Obligations.UnpadChecksTheHeaderAndUndoesPad := by
  unfold Obligations.UnpadChecksTheHeaderAndUndoesPad
  refine ⟨fun u => unpadBits_of_short, fun h r hr => ?_, fun h d r => unpadBits_of_fits, unpadBits_padBits⟩
  rw [unpadBits_bin8_append, if_pos hr]

/-! ### `unpack` undoes `pack` (44_unpack.md R206) -/

/-- The artifact of an encoded bit-string holds the bits again. -/
theorem unpackBytes_of_toBytes_padBits {m : Bool} {d : Bits} {a : List Byte} (h : toBytes (padBits m d) = .ok a)
    (t : Table (Option Bits)) : unpackBytes t a = decodeBits t d := by
  rw [unpackBytes, fromBytes_of_toBytes h, unpadBits_padBits]

/-- Settles O43: each of the three functions of `unpack` undoes one of `pack`. -/
theorem unpackUndoesPackInBothPadModes : Obligations.UnpackUndoesPackInBothPadModes := by
  unfold Obligations.UnpackUndoesPackInBothPadModes
  intro t b ht hcoded m
  obtain ⟨d, henc, hdec, -⟩ := decodeUndoesEncode t b ht hcoded
  obtain ⟨a, -, ha⟩ := toBytes_padBits m d
  refine ⟨_, by rw [packBytes, henc]; exact ha, ?_⟩
  rw [unpackBytes_of_toBytes_padBits ha, hdec]

/-! ### DECOMPRESS (44_unpack.md R204) -/

section Decompress

variable {s : State}

/-- DECOMPRESS with a table held, when its work raises an error. -/
theorem exec_decompress_error (htv : s.tv = true) {e : Raise} (h : unpackProduce s = .error e) :
    exec .decompress s = .next { s with
      err := e.code, errInfo := e.info, sticky := true, outLen := 0#32, outBuf := [] } := by
  rw [exec_decompress_legal htv, h]
  rfl

/-- DECOMPRESS with a table held, when its work gives a result. -/
theorem exec_decompress_ok (htv : s.tv = true) {o : Produced} (h : unpackProduce s = .ok o) :
    exec .decompress s = .next { s with
      outBuf := Memory.ofBytes o.bytes, outLen := BitVec.ofNat 32 o.bytes.length,
      bitLen := BitVec.ofNat 32 o.bitLen, pad := BitVec.ofNat 32 o.pad,
      phase := .unpacked, err := .ok, errInfo := 0#32 } := by
  rw [exec_decompress_legal htv, h]
  rfl

theorem unpackProduce_of_unpad_error {e : Raise} (h : unpadBits (fromBytes (inputBytes s)) = .error e) :
    unpackProduce s = .error e := by
  rw [unpackProduce, h]

theorem unpackProduce_of_decode_error {d : Bits} {x : Nat} {e : Raise}
    (hu : unpadBits (fromBytes (inputBytes s)) = .ok (d, x)) (hd : decodeBits s.code d = .error e) :
    unpackProduce s = .error e := by
  simp only [unpackProduce, hu, hd]

theorem unpackProduce_of_decode_ok {d : Bits} {x : Nat} {out : List Byte}
    (hu : unpadBits (fromBytes (inputBytes s)) = .ok (d, x)) (hd : decodeBits s.code d = .ok out) :
    unpackProduce s = fitOut s.cfg.outCap ⟨out, d.length, x⟩ := by
  simp only [unpackProduce, hu, hd]

/-- `unpad` of an artifact: its first byte is the header, the other bytes are the remainder. -/
theorem unpadBits_fromBytes_cons (h : Byte) (p : List Byte) : unpadBits (fromBytes (h :: p)) =
    if 8 * p.length < h.toNat then .error ⟨.format, 3#32⟩
    else .ok ((fromBytes p).take (8 * p.length - h.toNat), h.toNat) := by
  rw [fromBytes_cons, unpadBits_bin8_append, fromBytes_length]

theorem unpadBits_of_header_fits {h : Byte} {p : List Byte} (hin : inputBytes s = h :: p)
    (hfits : h.toNat ≤ 8 * p.length) :
    unpadBits (fromBytes (inputBytes s)) = .ok ((fromBytes p).take (8 * p.length - h.toNat), h.toNat) := by
  rw [hin, unpadBits_fromBytes_cons, if_neg (Nat.not_lt.2 hfits)]

end Decompress

/-- Settles O44: `unpad` and `decode` then succeed, and the result passes the check against OUT_CAP. -/
theorem decompressWritesTheSymbols : Obligations.DecompressWritesTheSymbols := by
  unfold Obligations.DecompressWritesTheSymbols
  intro s h p out htv hin hfits hdec hcap
  have hprod := unpackProduce_of_decode_ok (unpadBits_of_header_fits hin hfits) hdec
  have hbits : ((fromBytes p).take (8 * p.length - h.toNat)).length = 8 * p.length - h.toNat := by
    rw [List.length_take, fromBytes_length, Nat.min_eq_left (Nat.sub_le _ _)]
  rw [fitOut_of_le hcap, hbits] at hprod
  rw [exec_decompress_ok htv hprod, BitVec.ofNat_toNat]

/-- Settles O46: the header is looked for, then checked, then the bits are decoded, and OUT_CAP is looked at last. -/
theorem decompressReportsFormatErrorsInOrder : Obligations.DecompressReportsFormatErrorsInOrder := by
  unfold Obligations.DecompressReportsFormatErrorsInOrder
  refine fun s htv => ⟨fun hin => ?_, fun h p hin hlt => ?_, fun h p e hin hfits hdec => ?_⟩
  · have hunpad : unpadBits (fromBytes (inputBytes s)) = .error ⟨.format, 2#32⟩ := by
      rw [hin]
      exact unpadBits_of_short (by decide)
    exact exec_decompress_error htv (unpackProduce_of_unpad_error hunpad)
  · have hunpad : unpadBits (fromBytes (inputBytes s)) = .error ⟨.format, 3#32⟩ := by
      rw [hin, unpadBits_fromBytes_cons, if_pos hlt]
    exact exec_decompress_error htv (unpackProduce_of_unpad_error hunpad)
  · obtain rfl := decodeScan_eq_error hdec
    exact exec_decompress_error htv (unpackProduce_of_decode_error (unpadBits_of_header_fits hin hfits) hdec)

end Sys2Proof.Machine

/-! ## COMPRESS packs the trimmed input, and DECOMPRESS undoes it (45_facade.md R222, R225) -/

namespace Sys2Proof.Machine

open Sys2Proof

/-! ### The table of an input covers the input (42_codetable.md R165) -/

theorem freqTotal_analyze_lt {b : List Byte} (hb : b.length < 2 ^ 32) : freqTotal (analyze b) < 2 ^ 32 :=
  (freqTotal_analyze hb).trans_lt hb

theorem codesOk_tableOfFreq {f : Table Word} (hf : freqTotal f < 2 ^ 32) : CodesOk (tableOfFreq f) := by
  rw [tableOfFreq_eq hf]
  exact (treeOk_buildNodes hf).codesOk_treeTable

/-- Every symbol of an input has a count, and so a code in the input's own table. -/
theorem coded_by_own_table {b : List Byte} (hb : b.length < 2 ^ 32) :
    ∀ x ∈ b, entry (tableOfFreq (analyze b)) x ≠ none := by
  intro x hx
  rw [Option.ne_none_iff_isSome, isSome_entry_tableOfFreq_iff (freqTotal_analyze_lt hb), entry_analyze_ne_zero_iff hb]
  exact hx

/-! ### What the stages of COMPRESS leave (45_facade.md R222) -/

section Compress

variable {s t : State} {b : List Byte}

/-- The trimmed input is no longer than the input, so its length fits IN_LEN. -/
theorem length_lt_of_trimmed (hb : b = trim s.cfg.ws (inputBytes s)) : b.length < 2 ^ 32 :=
  hb ▸ (trim_length_le _ _).trans_lt (inputBytes_length_lt s)

theorem inputBytes_compressStages (s : State) : inputBytes (compressStages s) = trim s.cfg.ws (inputBytes s) := by
  have htrim : inputBytes (compressStages s) = inputBytes (trimStage s) := inputBytes_congr rfl rfl rfl
  rw [htrim, inputBytes_trimStage]

/-- The stages make all tables those of the trimmed input, and write nothing else but IN_LEN, TV and PHASE. -/
theorem compressStages_eq (hb : b = trim s.cfg.ws (inputBytes s)) :
    compressStages s = { s with
      inLen := BitVec.ofNat 32 b.length, freq := analyze b, nsym := BitVec.ofNat 32 (symbolCount (analyze b)),
      node := buildNodes (analyze b), nodeCnt := BitVec.ofNat 32 (buildNodes (analyze b)).length,
      root := BitVec.ofNat 32 (buildRoot (analyze b)), code := tableOfFreq (analyze b), tv := true,
      phase := .tableReady } := by
  have hin : inputBytes (trimStage s) = b := (inputBytes_trimStage s).trans hb.symm
  have hcode := compressStages_code s
  rw [hin, ← tableOfFreq_eq (freqTotal_analyze_lt (length_lt_of_trimmed hb))] at hcode
  have hlen : (trimStage s).inLen = BitVec.ofNat 32 b.length := by
    rw [hb]
    rfl
  rw [← hcode, ← hlen, ← hin]
  rfl

/-- What the last stage produces is the artifact of the trimmed input, checked against OUT_CAP. -/
theorem packProduce_compressStages (hb : b = trim s.cfg.ws (inputBytes s)) :
    ∃ a, packBytes s.cfg.pad8 (tableOfFreq (analyze b)) b = .ok a ∧
      a.length = artifactLength s.cfg.pad8 (encodedLength (tableOfFreq (analyze b)) b) ∧
      packProduce (compressStages s) = fitOut s.cfg.outCap ⟨a, encodedLength (tableOfFreq (analyze b)) b,
        extra s.cfg.pad8 (encodedLength (tableOfFreq (analyze b)) b)⟩ := by
  have hin : inputBytes (compressStages s) = b := (inputBytes_compressStages s).trans hb.symm
  have hcode : (compressStages s).code = tableOfFreq (analyze b) := by rw [compressStages_eq hb]
  have hcoded : ∀ x ∈ inputBytes (compressStages s), entry (compressStages s).code x ≠ none := by
    rw [hin, hcode]
    exact coded_by_own_table (length_lt_of_trimmed hb)
  have hpack := packProduce_of_coded hcoded
  rwa [hin, hcode] at hpack

/-- COMPRESS when the artifact fits OUT. -/
theorem exec_compress_of_fits (hb : b = trim s.cfg.ws (inputBytes s))
    (hfit : artifactLength s.cfg.pad8 (encodedLength (tableOfFreq (analyze b)) b) ≤ s.cfg.outCap) :
    ∃ a, packBytes s.cfg.pad8 (tableOfFreq (analyze b)) b = .ok a ∧
      a.length = artifactLength s.cfg.pad8 (encodedLength (tableOfFreq (analyze b)) b) ∧
      exec .compress s = .next (succeed (setPhase .packed (writeOut a
        (BitVec.ofNat 32 (encodedLength (tableOfFreq (analyze b)) b))
        (BitVec.ofNat 32 (extra s.cfg.pad8 (encodedLength (tableOfFreq (analyze b)) b))) (compressStages s)))) := by
  obtain ⟨a, hpack, hlen, hprod⟩ := packProduce_compressStages hb
  rw [fitOut_of_le (hlen.trans_le hfit)] at hprod
  refine ⟨a, hpack, hlen, ?_⟩
  rw [exec_compress, hprod]
  rfl

end Compress

/-- Settles O47: the stages make the tables of the trimmed input, these cover it, and the artifact passes the check
against OUT_CAP. -/
theorem compressPacksTheTrimmedInput : Obligations.CompressPacksTheTrimmedInput := by
  unfold Obligations.CompressPacksTheTrimmedInput
  intro s b hb hfit
  obtain ⟨a, hpack, -, hexec⟩ := exec_compress_of_fits hb hfit
  refine ⟨a, hpack, ?_⟩
  rw [hexec, compressStages_eq hb]
  rfl

/-! ### DECOMPRESS undoes COMPRESS (45_facade.md R225) -/

/-- COMPRESS fails only where the artifact does not fit OUT. -/
theorem fits_of_compress_ok {s t : State} {b : List Byte} (hb : b = trim s.cfg.ws (inputBytes s))
    (h : exec .compress s = .next t) (hok : t.err = .ok) :
    artifactLength s.cfg.pad8 (encodedLength (tableOfFreq (analyze b)) b) ≤ s.cfg.outCap := by
  obtain ⟨a, -, hlen, hprod⟩ := packProduce_compressStages hb
  by_contra hnot
  rw [← hlen, not_le] at hnot
  rw [exec_compress, hprod, fitOut, if_pos hnot] at h
  injection h with h
  rw [← h] at hok
  cases hok

/-- DECOMPRESS of an artifact that the held table unpacks to symbols which fit OUT. -/
theorem exec_decompress_of_unpackBytes {u : State} {out : List Byte} (htv : u.tv = true)
    (h : unpackBytes u.code (inputBytes u) = .ok out) (hcap : out.length ≤ u.cfg.outCap) (hlen : out.length < 2 ^ 32) :
    ∃ v, exec .decompress u = .next v ∧ v.err = .ok ∧ v.phase = .unpacked ∧ v.outLen = BitVec.ofNat 32 out.length ∧
      outputBytes v = out := by
  unfold unpackBytes at h
  split at h
  · cases h
  · rename_i d x hunpad
    have hprod := unpackProduce_of_decode_ok hunpad h
    rw [fitOut_of_le hcap] at hprod
    exact ⟨_, exec_decompress_ok htv hprod, rfl, rfl, rfl, outputBytes_of_buf rfl (toNat_ofNat_word hlen)⟩

/-- After a COMPRESS that succeeded OUT holds the artifact, which the table in CODE unpacks to the trimmed input. -/
theorem unpackBytes_of_compress_ok {s t : State} (hcfg : s.cfg.wf = true) (h : exec .compress s = .next t)
    (hok : t.err = .ok) :
    t.cfg = s.cfg ∧ t.tv = true ∧ unpackBytes t.code (outputBytes t) = .ok (trim s.cfg.ws (inputBytes s)) := by
  generalize hb : trim s.cfg.ws (inputBytes s) = b
  have hfit := fits_of_compress_ok hb.symm h hok
  have hlen := length_lt_of_trimmed hb.symm
  obtain ⟨a, hpack, halen, hexec⟩ := exec_compress_of_fits hb.symm hfit
  obtain ⟨a', hpack', hunpack⟩ := unpackUndoesPackInBothPadModes _ b
    (codesOk_tableOfFreq (freqTotal_analyze_lt hlen)) (coded_by_own_table hlen) s.cfg.pad8
  obtain rfl := Except.ok.inj (hpack.symm.trans hpack')
  obtain ⟨-, -, -, hcap⟩ := config_wf_iff.1 hcfg
  rw [h] at hexec
  injection hexec with ht
  have hcode : t.code = tableOfFreq (analyze b) := by
    rw [ht, compressStages_eq hb.symm]
    rfl
  have hout : outputBytes t = a := by
    rw [ht]
    exact outputBytes_of_buf rfl (toNat_ofNat_word (by omega))
  refine ⟨(exec_frame h).cfg, by rw [ht]; rfl, ?_⟩
  rw [hcode, hout]
  exact hunpack

/-- Settles O49: OUT holds the artifact, CODE the table that unpacks it, and the symbols pass the check against
OUT_CAP. -/
theorem decompressUndoesCompress : Obligations.DecompressUndoesCompress := by
  unfold Obligations.DecompressUndoesCompress
  intro s t u hcfg h hok hucfg hutv hucode huin hcap
  obtain ⟨htcfg, httv, hunpack⟩ := unpackBytes_of_compress_ok hcfg h hok
  rw [← huin, ← hucode] at hunpack
  have hlen := (trim_length_le s.cfg.ws (inputBytes s)).trans_lt (inputBytes_length_lt s)
  obtain ⟨v, hv, hverr, hphase, -, hout⟩ := exec_decompress_of_unpackBytes (hutv.trans httv) hunpack
    (by rwa [hucfg, htcfg]) hlen
  exact ⟨v, hv, hverr, hphase, hout⟩

end Sys2Proof.Machine

/-! ## The round trip as host scripts (45_facade.md R225, 30_encoding.md R95, R96) -/

namespace Sys2Proof.Machine

open Sys2Proof

/-! ### Runs of steps -/

theorem stepsTo_zero (s : State) : stepsTo 0 s s := rfl

/-- A run of one step more is a step and then the run. -/
theorem run_succ_eq_next_iff {M : Host.Core} {n : Nat} {s u : M.State} :
    M.run (n + 1) s = .next u ↔ ∃ t, M.step s = .next t ∧ M.run n t = .next u := by
  rw [Host.Core.run]
  cases M.step s with
  | next t => simp
  | fault r => simp
  | refused r => simp

theorem stepsTo_succ_iff {n : Nat} {s u : State} : stepsTo (n + 1) s u ↔ ∃ t, step s = .next t ∧ stepsTo n t u :=
  run_succ_eq_next_iff

theorem stepsTo_succ {n : Nat} {s t u : State} (h : step s = .next t) (hn : stepsTo n t u) : stepsTo (n + 1) s u :=
  stepsTo_succ_iff.2 ⟨t, h, hn⟩

theorem stepsTo_one {s t : State} (h : step s = .next t) : stepsTo 1 s t := stepsTo_succ h (stepsTo_zero t)

theorem stepsTo_add {m n : Nat} {s t u : State} (hm : stepsTo m s t) (hn : stepsTo n t u) : stepsTo (m + n) s u := by
  induction m generalizing s with
  | zero =>
    obtain rfl : s = t := Host.Outcome.next.inj hm
    rwa [Nat.zero_add]
  | succ m ih =>
    obtain ⟨s', hs, hm⟩ := stepsTo_succ_iff.1 hm
    rw [Nat.add_right_comm]
    exact stepsTo_succ hs (ih hm)

/-! ### Loading bytes into IN -/

/-- What a load of the bytes `vs` to the indices of IN from `i` on does to a state: IN shows them there and is else as
before, and the parameters, the code table and TV stay. -/
structure Loads (i : Nat) (vs : List Byte) (s t : State) : Prop where
  cfg : t.cfg = s.cfg
  tv : t.tv = s.tv
  code : t.code = s.code
  bytes : ∀ j, inByte t j = (Memory.lookup (Memory.ofBytesFrom i vs) j).getD (inByte s j)

theorem Loads.refl (i : Nat) (s : State) : Loads i [] s s := ⟨rfl, rfl, rfl, fun _ => rfl⟩

/-- A state with the same IN, parameters and table may stand before a load. -/
theorem Loads.of_same {i : Nat} {vs : List Byte} {s s' t : State} (hs : Loads i [] s s') (h : Loads i vs s' t) :
    Loads i vs s t :=
  ⟨h.cfg.trans hs.cfg, h.tv.trans hs.tv, h.code.trans hs.code, fun j => by
    rw [h.bytes, hs.bytes]
    rfl⟩

/-- A byte written at `i`, whatever the host's side is then, and a load from `i + 1` on. -/
theorem Loads.cons {i : Nat} {v : Byte} {vs : List Byte} {s t : State} {r : BusResponse} {rest : List HostEvent}
    (h : Loads (i + 1) vs (respond r (writeIn i v (popHost rest s))) t) : Loads i (v :: vs) s t := by
  have hwrite : ∀ j, inByte (respond r (writeIn i v (popHost rest s))) j = inByte (writeIn i v s) j := fun _ => rfl
  refine ⟨h.cfg, h.tv, h.code, fun j => ?_⟩
  rw [h.bytes, hwrite, Memory.ofBytesFrom, Memory.lookup]
  by_cases hj : j = i
  · subst hj
    rw [if_pos rfl, Memory.lookup_ofBytesFrom, if_pos j.lt_succ_self, inByte_writeIn_same]
    rfl
  · rw [if_neg hj, inByte_writeIn_other _ _ hj]

/-- With IN_LEN set to their number, the loaded bytes are the input. -/
theorem Loads.inputBytes_setInLen {vs : List Byte} {s t : State} (h : Loads 0 vs s t) {n : Word}
    (hn : n.toNat = vs.length) : inputBytes (setInLen n t) = vs := by
  refine List.ext_getElem ((inputBytes_length _).trans hn) fun k _ hk => ?_
  have hbyte : inByte (setInLen n t) k = vs[k] := by
    have hsame : inByte (setInLen n t) k = inByte t k := rfl
    rw [hsame, h.bytes, ← Memory.ofBytes, Memory.lookup_ofBytes,
      List.getElem?_eq_getElem hk, Option.getD_some]
  rw [← hbyte]
  simp [inputBytes]

/-! ### One event of a script -/

/-- A read leaves IN, the parameters and the table. -/
theorem step_read {s : State} {off : Nat} {w : Width} {rest : List HostEvent} (hs : s.host = .read off w :: rest)
    (i : Nat) : ∃ t, step s = .next t ∧ t.host = rest ∧ Loads i [] s t := by
  refine ⟨_, step_event hs rfl, ?_⟩
  rw [serveEvent, serveRead_frame]
  exact ⟨rfl, rfl, rfl, rfl, fun _ => rfl⟩

theorem step_wrbIn {s : State} {i : Nat} {v : Byte} {rest : List HostEvent} (hs : s.host = wrbIn i v :: rest)
    (hi : i < s.cfg.inCap) : step s = .next (respond .done (writeIn i v (popHost rest s))) := by
  rw [step_event hs rfl, wrbIn, serveEvent, serveWrite_byte_of_inIndex (s := popHost rest s) (inIndex_inBase_add hi)]

/-- `wr IN_LEN` of a number of bytes that fits IN. -/
theorem step_wrInLen {s : State} {n : Nat} {rest : List HostEvent} (hs : s.host = wrInLen n :: rest)
    (hcfg : s.cfg.wf = true) (hn : n ≤ s.cfg.inCap) :
    step s = .next (respond .done (setInLen (BitVec.ofNat 32 n) (popHost rest s))) := by
  obtain ⟨-, hin, -⟩ := config_wf_iff.1 hcfg
  have hle : (BitVec.ofNat 32 n).toNat ≤ s.cfg.inCap := (toNat_ofNat_word (by omega)).trans_le hn
  have hcmd : inLenOffset ≠ cmdOffset := by decide
  rw [step_event hs (commandWordOf_write (.inl hcmd))]
  exact congrArg _ (serveWrite_inLen (s := popHost rest s) hle)

theorem step_cmd {s : State} {i : Instr} {rest : List HostEvent} (hs : s.host = cmd i :: rest) :
    step s = exec i (respond .done (popHost rest s)) :=
  (step_command hs rfl).trans (runCommand_of_decode (decode_encode i) _)

/-! ### The scripts `ld IN` and `mvout` (30_encoding.md R96) -/

/-- The byte writes of `ld IN`, one step each. -/
theorem runs_wrbFrom {vs : List Byte} {i : Nat} {s : State} {rest : List HostEvent}
    (hs : s.host = wrbFrom i vs ++ rest) (hi : i + vs.length ≤ s.cfg.inCap) :
    ∃ t, stepsTo vs.length s t ∧ t.host = rest ∧ Loads i vs s t := by
  induction vs generalizing i s with
  | nil => exact ⟨s, stepsTo_zero s, hs, Loads.refl i s⟩
  | cons v vs ih =>
    rw [List.length_cons] at hi
    obtain ⟨t, hrun, hrest, hload⟩ := ih (i := i + 1)
      (s := respond .done (writeIn i v (popHost (wrbFrom (i + 1) vs ++ rest) s))) rfl (by simp; omega)
    exact ⟨t, stepsTo_succ (step_wrbIn hs (by omega)) hrun, hrest, Loads.cons hload⟩

/-- The byte reads and writes of `mvout`, two steps for each byte. -/
theorem runs_mvFrom {vs : List Byte} {i : Nat} {s : State} {rest : List HostEvent}
    (hs : s.host = mvFrom i vs ++ rest) (hi : i + vs.length ≤ s.cfg.inCap) :
    ∃ t, stepsTo (2 * vs.length) s t ∧ t.host = rest ∧ Loads i vs s t := by
  induction vs generalizing i s with
  | nil => exact ⟨s, stepsTo_zero s, hs, Loads.refl i s⟩
  | cons v vs ih =>
    rw [List.length_cons] at hi
    obtain ⟨s', hread, hs', hsame⟩ := step_read (s := s) hs i
    have hcap := congrArg Config.inCap hsame.cfg
    obtain ⟨t, hrun, hrest, hload⟩ := ih (i := i + 1)
      (s := respond .done (writeIn i v (popHost (mvFrom (i + 1) vs ++ rest) s'))) rfl (by simp; omega)
    exact ⟨t, stepsTo_succ hread (stepsTo_succ (step_wrbIn hs' (by omega)) hrun), hrest,
      hsame.of_same (Loads.cons hload)⟩

/-- The end of both scripts: `wr IN_LEN` makes the loaded bytes the input of the command behind it. -/
theorem runs_wrInLen_cmd {vs : List Byte} {s t : State} {i : Instr} (h : Loads 0 vs s t)
    (hs : t.host = [wrInLen vs.length, cmd i]) (hcfg : s.cfg.wf = true) (hlen : vs.length ≤ s.cfg.inCap) :
    ∃ u, u.cfg = s.cfg ∧ u.tv = s.tv ∧ u.code = s.code ∧ inputBytes u = vs ∧
      ∀ v, exec i u = .next v → stepsTo 2 t v := by
  obtain ⟨-, hin, -⟩ := config_wf_iff.1 hcfg
  have hstep := step_wrInLen hs (h.cfg ▸ hcfg) (h.cfg ▸ hlen)
  refine ⟨respond .done (popHost [] (respond .done (setInLen (BitVec.ofNat 32 vs.length) (popHost [cmd i] t)))),
    h.cfg, h.tv, h.code, h.inputBytes_setInLen (toNat_ofNat_word (by omega)), fun v hv => ?_⟩
  exact stepsTo_succ hstep (stepsTo_one ((step_cmd rfl).trans hv))

/-- `ld IN, vs` and a command: the command runs with `vs` as its input. -/
theorem runs_ldIn {s : State} {vs : List Byte} (hcfg : s.cfg.wf = true) (hlen : vs.length ≤ s.cfg.inCap) (i : Instr) :
    ∃ u, u.cfg = s.cfg ∧ inputBytes u = vs ∧
      ∀ v, exec i u = .next v → stepsTo (vs.length + 2) { s with host := ldIn vs ++ [cmd i] } v := by
  obtain ⟨t, hwrites, hhost, hload⟩ := runs_wrbFrom (s := { s with host := ldIn vs ++ [cmd i] })
    (List.append_assoc _ _ _) (by rwa [Nat.zero_add])
  obtain ⟨u, hucfg, -, -, huin, hrun⟩ := runs_wrInLen_cmd hload hhost hcfg hlen
  exact ⟨u, hucfg, huin, fun v hv => stepsTo_add hwrites (hrun v hv)⟩

/-- `mvout` of `vs` and a command: the command runs with `vs` as its input, and with the table held before. -/
theorem runs_mvout {s : State} {vs : List Byte} (hcfg : s.cfg.wf = true) (hlen : vs.length ≤ s.cfg.inCap) (i : Instr) :
    ∃ u, u.cfg = s.cfg ∧ u.tv = s.tv ∧ u.code = s.code ∧ inputBytes u = vs ∧
      ∀ v, exec i u = .next v → stepsTo (2 * vs.length + 3) { s with host := mvout vs ++ [cmd i] } v := by
  obtain ⟨s', hread, hhost, hsame⟩ := step_read (s := { s with host := mvout vs ++ [cmd i] }) rfl 0
  have hcap : s'.cfg.inCap = s.cfg.inCap := congrArg Config.inCap hsame.cfg
  obtain ⟨t, hmoves, hhost', hload⟩ := runs_mvFrom (hhost.trans (List.append_assoc _ _ _))
    (by rwa [Nat.zero_add, hcap])
  obtain ⟨u, hucfg, hutv, hucode, huin, hrun⟩ := runs_wrInLen_cmd (hsame.of_same hload) hhost' hcfg hlen
  exact ⟨u, hucfg, hutv, hucode, huin, fun v hv => stepsTo_succ hread (stepsTo_add hmoves (hrun v hv))⟩

/-- Settles O50: each script makes its bytes the input of the command behind it, and O49 says what DECOMPRESS makes of
the artifact. -/
theorem roundTripScriptReturnsTheTrimmedInput : Obligations.RoundTripScriptReturnsTheTrimmedInput := by
  unfold Obligations.RoundTripScriptReturnsTheTrimmedInput
  intro s b hcfg hb
  obtain ⟨s', hs'cfg, hs'in, hload⟩ := runs_ldIn hcfg hb .compress
  obtain ⟨t, ht⟩ := exec_next .compress s'
  refine ⟨t, hload t ht, fun hok hlen hcap => ?_⟩
  have htcfg : t.cfg = s.cfg := (exec_frame ht).cfg.trans hs'cfg
  rw [← hs'cfg] at hcfg
  rw [← htcfg] at hlen
  rw [← hs'cfg, ← hs'in] at hcap ⊢
  obtain ⟨u, hucfg, hutv, hucode, huin, hmove⟩ := runs_mvout (by rwa [htcfg, ← hs'cfg]) hlen .decompress
  obtain ⟨v, hv, hverr, -, hout⟩ := decompressUndoesCompress s' t u hcfg ht hok hucfg hutv hucode huin hcap
  exact ⟨v, hmove v hv, hverr, hout⟩

end Sys2Proof.Machine

/-! ## COMPRESS as its stages, and the degenerate inputs (45_facade.md R222, R226, R227) -/

namespace Sys2Proof.Machine

open Sys2Proof

/-! ### COMPRESS as its five stages (45_facade.md R222) -/

/-! No stage reads ERR or ERRINFO, and none before the last one writes them. -/

theorem analyzeStage_succeed (s : State) : analyzeStage (succeed s) = succeed (analyzeStage s) := rfl

theorem buildStage_succeed (s : State) : buildStage (succeed s) = succeed (buildStage s) := rfl

theorem deriveStage_succeed (s : State) : deriveStage (succeed s) = succeed (deriveStage s) := rfl

theorem succeed_succeed (s : State) : succeed (succeed s) = succeed s := rfl

/-- The last stage overwrites what `succeed` records. -/
theorem finishPack_succeed (s : State) :
    finishOut (packProduce (succeed s)) .packed (succeed s) = finishOut (packProduce s) .packed s := by
  have hprod : packProduce (succeed s) = packProduce s := rfl
  rw [hprod]
  cases packProduce s with
  | ok o => rfl
  | error e => rfl

theorem execAll_cons_of_next {i : Instr} {is : List Instr} {s t : State} (h : exec i s = .next t) :
    execAll (i :: is) s = execAll is t := by
  simp only [execAll, h]

theorem execAll_singleton (i : Instr) (s : State) : execAll [i] s = exec i s := by
  obtain ⟨t, ht⟩ := exec_next i s
  rw [execAll_cons_of_next ht, ht, execAll]

/-- Settles O48: each stage sets the phase that the next one asks for, and the `succeed` between two stages is
overwritten. -/
theorem compressEqualsItsFiveStages : Obligations.CompressEqualsItsFiveStages := by
  unfold Obligations.CompressEqualsItsFiveStages
  intro s
  rw [execAll_cons_of_next (exec_trim s), execAll_cons_of_next (exec_analyze _),
    execAll_cons_of_next (exec_build_legal rfl), execAll_cons_of_next (exec_derive_legal rfl), execAll_singleton,
    exec_pack_legal rfl, exec_compress]
  simp only [analyzeStage_succeed, buildStage_succeed, deriveStage_succeed, succeed_succeed, finishPack_succeed,
    compressStages]

/-! ### Empty input (45_facade.md R227) -/

/-- The header byte 0 alone is the artifact of no bits, in both PAD8 modes. -/
theorem toBytes_padBits_nil (p : Bool) : toBytes (padBits p []) = .ok [0x00#8] := toBytes_fromBytes [0x00#8]

theorem packBytes_nil (p : Bool) (t : Table (Option Bits)) : packBytes p t [] = .ok [0x00#8] := toBytes_padBits_nil p

/-- The byte 0 unpacks to nothing, whatever table is held. -/
theorem unpackBytes_zero (t : Table (Option Bits)) : unpackBytes t [0x00#8] = .ok [] :=
  unpackBytes_of_toBytes_padBits (toBytes_padBits_nil false) t

theorem encodedLength_nil (t : Table (Option Bits)) : encodedLength t [] = 0 := rfl

theorem artifactLength_zero (p : Bool) : artifactLength p 0 = 1 := by
  rw [artifactLength, extra, if_pos rfl]

theorem entry_analyze_nil (x : Byte) : entry (analyze []) x = 0#32 := by
  rw [analyze, entry_tabulate, List.count_nil]

theorem buildNodes_analyze_nil : buildNodes (analyze []) = [] := by
  rw [buildNodes, mergeAll_of_no_leaf (leaves_of_no_entry entry_analyze_nil)]

/-- Settles O51: no symbol is counted, so there is no leaf, no code and no bit, and the artifact is its header byte. -/
theorem emptyInputRoundTrips : Obligations.EmptyInputRoundTrips := by
  unfold Obligations.EmptyInputRoundTrips
  intro s hcfg hb
  obtain ⟨-, -, hcap, -⟩ := config_wf_iff.1 hcfg
  have hfit : artifactLength s.cfg.pad8 (encodedLength (tableOfFreq (analyze [])) []) ≤ s.cfg.outCap := by
    rw [encodedLength_nil, artifactLength_zero]
    exact Nat.le_of_succ_le hcap
  obtain ⟨a, hpack, ht⟩ := compressPacksTheTrimmedInput s [] hb.symm hfit
  obtain rfl : [0x00#8] = a := Except.ok.inj ((packBytes_nil _ _).symm.trans hpack)
  refine ⟨_, ht, rfl, rfl, rfl, ?_, ?_, ?_, fun x => ?_, rfl, outputBytes_of_buf rfl rfl, rfl,
    ?_, fun u htv hucfg huin => ?_⟩
  · rw [symbolCount_analyze (by decide)]
    rfl
  · rw [buildNodes_analyze_nil]
    rfl
  · rw [buildNodes_analyze_nil]
  · rw [tableOfFreq_eq (freqTotal_analyze_lt (by decide)), buildNodes_analyze_nil, entry_treeTable_nil]
  · rfl
  · have hunpack : unpackBytes u.code (inputBytes u) = .ok [] := by rw [huin, unpackBytes_zero]
    obtain ⟨v, hv, hverr, -, hlen, hout⟩ := exec_decompress_of_unpackBytes htv hunpack (Nat.zero_le _) (by decide)
    exact ⟨v, hv, hverr, hlen, hout⟩

/-! ### Input of one repeated symbol (45_facade.md R226) -/

section Repeated

variable {x : Byte} {n : Nat}

theorem trim_replicate {ws : List Byte} (hx : x ∉ ws) : trim ws (List.replicate n x) = List.replicate n x := by
  rw [trim_eq_rdropWhile, List.rdropWhile_eq_self_iff]
  intro hne
  rwa [List.getLast_replicate, List.contains_iff_mem]

theorem entry_analyze_replicate (x : Byte) (n : Nat) :
    entry (analyze (List.replicate n x)) x = BitVec.ofNat 32 n := by
  rw [analyze, entry_tabulate, List.count_replicate_self]

/-- The table of a repeated symbol has one entry. -/
theorem leaves_analyze_replicate (hn : 1 ≤ n) (hlt : n < 2 ^ 32) :
    leaves (analyze (List.replicate n x)) = [.leaf x (BitVec.ofNat 32 n)] := by
  have hlen : (List.replicate n x).length < 2 ^ 32 := by rwa [List.length_replicate]
  have hsym : ∀ y, entry (analyze (List.replicate n x)) y ≠ 0#32 ↔ y = x := by
    intro y
    rw [entry_analyze_ne_zero_iff hlen, List.mem_replicate]
    exact and_iff_right (by omega)
  rw [leaves_of_one_entry ((hsym x).2 rfl) fun y hy => not_ne_iff.1 (mt (hsym y).1 hy), entry_analyze_replicate]

/-- Its tree is the one leaf, with nothing to merge. -/
theorem buildNodes_analyze_replicate (hn : 1 ≤ n) (hlt : n < 2 ^ 32) :
    buildNodes (analyze (List.replicate n x)) = [.leaf x (BitVec.ofNat 32 n)] := by
  rw [buildNodes, mergeAll_of_one_leaf (leaves_analyze_replicate hn hlt)]

theorem entry_tableOfFreq_replicate (hn : 1 ≤ n) (hlt : n < 2 ^ 32) (y : Byte) :
    entry (tableOfFreq (analyze (List.replicate n x))) y = if y = x then some [false] else none := by
  have hlen : (List.replicate n x).length < 2 ^ 32 := by rwa [List.length_replicate]
  rw [tableOfFreq_eq (freqTotal_analyze_lt hlen), buildNodes_analyze_replicate hn hlt, entry_treeTable_leaf]

variable {t : Table (Option Bits)}

/-- With the code "0" a repeated symbol is as many 0 bits. -/
theorem encodeBits_replicate (hx : entry t x = some [false]) (n : Nat) :
    encodeBits t (List.replicate n x) = .ok (List.replicate n false) := by
  induction n with
  | zero => rfl
  | succ n ih => exact encodeBits_cons_eq_ok_iff.2 ⟨[false], _, hx, ih, rfl⟩

theorem encodedLength_replicate (hx : entry t x = some [false]) (n : Nat) :
    encodedLength t (List.replicate n x) = n := by
  rw [← encodeBits_length (encodeBits_replicate hx n), List.length_replicate]

theorem fromBytes_replicate_zero (m : Nat) :
    fromBytes (List.replicate m 0x00#8) = List.replicate (8 * m) false := by
  induction m with
  | zero => rfl
  | succ m ih =>
    have hbits : bin8 0x00#8 = List.replicate 8 false := rfl
    rw [List.replicate_succ, fromBytes_cons, ih, hbits, List.replicate_append_replicate, Nat.mul_succ, Nat.add_comm]

/-- The artifact of 0 bits is the padding count and zero bytes. -/
theorem packBytes_replicate (hx : entry t x = some [false]) (p : Bool) (n : Nat) :
    packBytes p t (List.replicate n x) =
      .ok (BitVec.ofNat 8 (extra p n) :: List.replicate ((n + extra p n) / 8) 0x00#8) := by
  have hpayload : List.replicate n false ++ List.replicate (extra p n) false =
      fromBytes (List.replicate ((n + extra p n) / 8) 0x00#8) := by
    rw [fromBytes_replicate_zero, List.replicate_append_replicate,
      Nat.mul_div_cancel' (Nat.dvd_of_mod_eq_zero (add_extra_mod_eight p n))]
  rw [packBytes, encodeBits_replicate hx]
  dsimp only
  rw [padBits_eq, List.length_replicate, hpayload]
  exact toBytes_bin8_append _ (toBytes_fromBytes _)

end Repeated

/-- Settles O52: the one leaf gives the code "0", with which the input is `n` bits 0; the round trip is O49. -/
theorem oneRepeatedSymbolRoundTrips : Obligations.OneRepeatedSymbolRoundTrips := by
  unfold Obligations.OneRepeatedSymbolRoundTrips
  intro s x n hcfg hn hx hin hcap hfit
  obtain ⟨-, -, -, houtCap⟩ := config_wf_iff.1 hcfg
  have hlt : n < 2 ^ 32 := by
    have hlen := inputBytes_length_lt s
    rwa [hin, List.length_replicate] at hlen
  have htrim : List.replicate n x = trim s.cfg.ws (inputBytes s) := by rw [hin, trim_replicate hx]
  have hcodes := entry_tableOfFreq_replicate (x := x) hn hlt
  have hcode : entry (tableOfFreq (analyze (List.replicate n x))) x = some [false] := by rw [hcodes, if_pos rfl]
  have hbits := encodedLength_replicate hcode n
  obtain ⟨a, hpack, ht⟩ := compressPacksTheTrimmedInput s _ htrim (by rwa [hbits])
  obtain rfl := Except.ok.inj ((packBytes_replicate hcode _ n).symm.trans hpack)
  have hnodes := buildNodes_analyze_replicate (x := x) hn hlt
  refine ⟨_, ht, rfl, ?_, ?_, hnodes, hcodes, ?_, ?_, fun u htv hucfg hucode huin => ?_⟩
  · rw [← leaves_length, leaves_analyze_replicate hn hlt]
    rfl
  · rw [hnodes]
    rfl
  · rw [hbits]
    exact toNat_ofNat_word hlt
  · refine outputBytes_of_buf rfl (toNat_ofNat_word ?_)
    rw [List.length_cons, List.length_replicate, Nat.add_comm]
    exact (hfit.trans houtCap).trans_lt (by decide)
  · obtain ⟨v, hv, hverr, -, hout⟩ := decompressUndoesCompress s _ u hcfg ht rfl hucfg htv hucode huin
      (by rwa [← htrim, List.length_replicate])
    exact ⟨v, hv, hverr, by rw [hout, ← htrim]⟩

end Sys2Proof.Machine

/-! ## COMPRESS is a function of its input, and the padding invariant (45_facade.md R229, R230) -/

namespace Sys2Proof.Machine

open Sys2Proof

/-! ### COMPRESS depends on the input alone (45_facade.md R230) -/

theorem outputBytes_congr {s t : State} (hlen : t.outLen = s.outLen) (hbuf : t.outBuf = s.outBuf) :
    outputBytes t = outputBytes s := by
  have hbyte : outByte t = outByte s := by
    funext i
    rw [outByte, outByte, hlen, hbuf]
  rw [outputBytes, outputBytes, hlen, hbyte]

/-- Settles O53: the stages write every table from the trimmed input, the artifact is made of these, and both are
checked against the same OUT_CAP. -/
theorem compressDependsOnTheInputAlone : Obligations.CompressDependsOnTheInputAlone := by
  unfold Obligations.CompressDependsOnTheInputAlone
  intro s s' t t' hcfg hin ht ht'
  generalize hb : trim s.cfg.ws (inputBytes s) = b
  have hb' : b = trim s'.cfg.ws (inputBytes s') := by rw [← hcfg, ← hin, hb]
  obtain ⟨a, hpack, -, hprod⟩ := packProduce_compressStages hb.symm
  obtain ⟨a', hpack', -, hprod'⟩ := packProduce_compressStages hb'
  rw [← hcfg] at hpack' hprod'
  obtain rfl := Except.ok.inj (hpack.symm.trans hpack')
  rw [exec_compress, hprod, compressStages_eq hb.symm] at ht
  rw [exec_compress, hprod', compressStages_eq hb'] at ht'
  injection ht with ht
  injection ht' with ht'
  subst ht ht'
  cases hfit : fitOut s.cfg.outCap _ with
  | ok o =>
    exact ⟨rfl, rfl, rfl, rfl, rfl, rfl, rfl, outputBytes_congr rfl rfl, rfl, rfl, rfl, rfl, rfl, fun _ => ⟨rfl, rfl⟩⟩
  | error e =>
    have herr : e.code ≠ .ok := by simp [fitOut_error hfit]
    exact ⟨rfl, rfl, rfl, rfl, rfl, rfl, rfl, outputBytes_congr rfl rfl, rfl, rfl, rfl, rfl, rfl,
      fun hok => absurd hok herr⟩

/-! ### The padding invariant (45_facade.md R229) -/

/-- What PACK's work has produced when it succeeds: `toBytes` and `pad` of the encoded input. -/
theorem packProduce_eq_ok {s : State} {o : Produced} (h : packProduce s = .ok o) :
    ∃ d, encodeBits s.code (inputBytes s) = .ok d ∧ toBytes (padBits s.cfg.pad8 d) = .ok o.bytes ∧
      o.bitLen = d.length ∧ o.pad = extra s.cfg.pad8 d.length ∧ o.bytes.length ≤ s.cfg.outCap := by
  obtain ⟨d, hd⟩ : ∃ d, encodeBits s.code (inputBytes s) = .ok d := by
    obtain ⟨d, a, hd, -, -⟩ := packProduce_ok h
    exact ⟨d, hd⟩
  obtain ⟨a, -, ha⟩ := toBytes_padBits s.cfg.pad8 d
  simp only [packProduce, hd, ha, List.headD_cons, toNat_ofNat_extra] at h
  obtain ⟨rfl, hfit⟩ := fitOut_ok h
  exact ⟨d, hd, ha, rfl, rfl, hfit⟩

/-- A PACK or COMPRESS that succeeds ends in PACK's work, on a state that meets the invariant. -/
theorem packed_of_exec_ok {i : Instr} {s t : State} (hi : i = .pack ∨ i = .compress) (hinv : Inv s)
    (h : exec i s = .next t) (hok : t.err = .ok) :
    ∃ u o, Inv u ∧ packProduce u = .ok o ∧
      t = succeed (setPhase .packed (writeOut o.bytes (BitVec.ofNat 32 o.bitLen) (BitVec.ofNat 32 o.pad) u)) := by
  obtain ⟨u, hu, ht⟩ : ∃ u, Inv u ∧ t = finishOut (packProduce u) .packed u := by
    rcases hi with rfl | rfl
    · by_cases hp : s.phase = .tableReady
      · rw [exec_pack_legal hp] at h
        injection h with h
        exact ⟨s, hinv, h.symm⟩
      · rw [exec_pack_illegal hp] at h
        injection h with h
        rw [← h] at hok
        cases hok
    · rw [exec_compress] at h
      injection h with h
      exact ⟨compressStages s, hinv.after_compressStages, h.symm⟩
  obtain ⟨o, ho, hfin⟩ | ⟨e, he, hfin⟩ := finishOut_cases (packProduce u) .packed u
  · exact ⟨u, o, hu, ho, ht.trans hfin⟩
  · rw [ht, hfin] at hok
    exact absurd hok (packProduce_error he)

theorem extra_false_le (n : Nat) : extra false n ≤ 7 := by
  simp only [extra, Bool.false_eq_true, if_false]
  split_ifs
  all_goals omega

/-- With PAD8 only no bits at all go without padding. -/
theorem eq_zero_of_extra_true {n : Nat} (h : extra true n = 0) : n = 0 := by
  simp only [extra, if_true] at h
  split_ifs at h with hn
  · exact hn
  · omega

/-- OUT holds the artifact of the bits `d`, the encoded input, and OUT_LEN, BIT_LEN and PAD describe it (43_pack.md
R185). -/
structure HoldsArtifact (t : State) (d : Bits) : Prop where
  encoded : encodeBits t.code (inputBytes t) = .ok d
  artifact : toBytes (padBits t.cfg.pad8 d) = .ok (outputBytes t)
  outLen : t.outLen.toNat = (outputBytes t).length
  bitLen : t.bitLen.toNat = d.length
  pad : t.pad = BitVec.ofNat 32 (extra t.cfg.pad8 d.length)

theorem length_of_toBytes_padBits {p : Bool} {d : Bits} {a : List Byte} (h : toBytes (padBits p d) = .ok a) :
    8 * a.length = 8 + d.length + extra p d.length := by
  rw [← fromBytes_length, fromBytes_of_toBytes h]
  exact (padAppendsWhatItsHeaderSays p d).1

/-- A PACK or COMPRESS that succeeds leaves the artifact of the encoded input. -/
theorem holdsArtifact_of_exec_ok {i : Instr} {s t : State} (hi : i = .pack ∨ i = .compress) (hinv : Inv s)
    (h : exec i s = .next t) (hok : t.err = .ok) : ∃ d, HoldsArtifact t d := by
  obtain ⟨u, o, hu, ho, rfl⟩ := packed_of_exec_ok hi hinv h hok
  obtain ⟨d, hd, hbytes, hbits, hpad, hfit⟩ := packProduce_eq_ok ho
  obtain ⟨hcfg, -⟩ := hu
  obtain ⟨-, -, -, hcap⟩ := config_wf_iff.1 hcfg
  have hlen := length_of_toBytes_padBits hbytes
  have houtLen : (BitVec.ofNat 32 o.bytes.length).toNat = o.bytes.length := toNat_ofNat_word (by omega)
  have hout : outputBytes (succeed (setPhase .packed (writeOut o.bytes (BitVec.ofNat 32 o.bitLen)
      (BitVec.ofNat 32 o.pad) u))) = o.bytes := outputBytes_of_buf rfl houtLen
  refine ⟨d, hd, ?_, ?_, hbits ▸ toNat_ofNat_word (by omega), congrArg (BitVec.ofNat 32) hpad⟩
  · rw [hout]
    exact hbytes
  · rw [hout]
    exact houtLen

/-- Settles O54: OUT holds `toBytes` of `pad` of the encoded input, and O34 says how long that is and how it ends. -/
theorem artifactMeetsThePaddingInvariant : Obligations.ArtifactMeetsThePaddingInvariant := by
  unfold Obligations.ArtifactMeetsThePaddingInvariant
  intro i s t hi hinv h hok
  obtain ⟨d, hencoded, hartifact, houtLen, hbitLen, hpad⟩ := holdsArtifact_of_exec_ok hi hinv h hok
  obtain ⟨-, -, -, -, hzeros, -, -, -, hle⟩ := padAppendsWhatItsHeaderSays t.cfg.pad8 d
  obtain ⟨a, -, ha⟩ := toBytes_padBits t.cfg.pad8 d
  have hout := Except.ok.inj (hartifact.symm.trans ha)
  have hlen := length_of_toBytes_padBits hartifact
  have hpadNat : t.pad.toNat = extra t.cfg.pad8 d.length := by rw [hpad, toNat_ofNat_word (by omega)]
  rw [hpadNat, houtLen, hbitLen]
  refine ⟨hlen, ?_, fun hp => ?_, fun hp => ⟨hle, fun hzero => ?_⟩, ?_⟩
  · rw [hout, List.getElem?_cons_zero, hpad, BitVec.setWidth_ofNat_of_le (by decide)]
  · rw [hp]
    exact extra_false_le _
  · rw [hp] at hzero
    have hlower := length_le_encodedLength (hinv.after_exec h).codesOk (coded_of_encodeFrom hencoded)
    rw [← encodeBits_length hencoded, eq_zero_of_extra_true hzero] at hlower
    exact List.length_eq_zero_iff.1 (Nat.le_zero.1 hlower)
  · rw [fromBytes_of_toBytes hartifact, hlen, Nat.add_sub_cancel, hzeros]

end Sys2Proof.Machine

/-! ## The phase table, and CLEAR (45_facade.md R221, R223) -/

namespace Sys2Proof.Machine

open Sys2Proof

/-! ### How each command moves PHASE and TV (45_facade.md R221) -/

/-- How a command ends, as the rows of the phase table have it: it was legal and succeeds, or it fails and leaves PHASE
and TV, or it is a COMPRESS whose artifact does not fit. -/
inductive PhaseOutcome (i : Instr) (s t : State) : Prop where
  | success (hlegal : legal i s) (herr : t.err = .ok) (hphase : t.phase = phaseAfter i s.phase)
      (htv : t.tv = tvAfter i s.tv)
  | failure (hi : i ≠ .compress) (herr : t.err ≠ .ok) (hillegal : ¬ legal i s → t.err = illegalError i)
      (hphase : t.phase = s.phase) (htv : t.tv = s.tv)
  | overflow (hi : i = .compress) (herr : t.err = .overflow) (hphase : t.phase = .tableReady) (htv : t.tv = true)

/-- PACK and DECOMPRESS, when legal, succeed or fail by their work's result. -/
theorem phaseOutcome_finishOut {i : Instr} {s : State} {r : Except Raise Produced} {p : Phase} (hi : i ≠ .compress)
    (hlegal : legal i s) (hp : phaseAfter i s.phase = p) (htv : tvAfter i s.tv = s.tv)
    (hr : ∀ e, r = .error e → e.code ≠ .ok) : PhaseOutcome i s (finishOut r p s) := by
  cases r with
  | ok o => exact .success hlegal rfl hp.symm htv.symm
  | error e => exact .failure hi (hr e rfl) (absurd hlegal) rfl rfl

/-- COMPRESS fails only with Overflow: the derived table covers the input (45_facade.md R222). -/
theorem packProduce_compressStages_error {s : State} {e : Raise} (h : packProduce (compressStages s) = .error e) :
    e.code = .overflow := by
  obtain ⟨a, -, -, hprod⟩ := packProduce_compressStages (s := s) rfl
  exact fitOut_error (hprod.symm.trans h)

theorem exec_phaseOutcome {i : Instr} {s t : State} (h : exec i s = .next t) : PhaseOutcome i s t := by
  obtain ⟨rfl, ht⟩ | ⟨rfl, ht⟩ | ⟨rfl, hp, ht⟩ | ⟨rfl, -, ht⟩ | ⟨rfl, hp, ht⟩ | ⟨rfl, -, ht⟩ | ⟨rfl, hp, ht⟩ |
    ⟨rfl, -, ht⟩ | ⟨rfl, ht⟩ | ⟨rfl, htv, ht⟩ | ⟨rfl, -, ht⟩ | ⟨rfl, ht⟩ := exec_cases h
  all_goals
    injection ht with ht
    subst ht
  · exact .success trivial rfl rfl rfl
  · exact .success trivial rfl rfl rfl
  · exact .success hp rfl rfl rfl
  · exact .failure nofun (sequenceRaise_code s) (fun _ => rfl) rfl rfl
  · exact .success hp rfl rfl rfl
  · exact .failure nofun (sequenceRaise_code s) (fun _ => rfl) rfl rfl
  · exact phaseOutcome_finishOut nofun hp rfl rfl fun _ => packProduce_error
  · exact .failure nofun (sequenceRaise_code s) (fun _ => rfl) rfl rfl
  · obtain ⟨o, -, hfin⟩ | ⟨e, he, hfin⟩ := finishOut_cases (packProduce (compressStages s)) .packed (compressStages s)
    · rw [hfin]
      exact .success trivial rfl rfl rfl
    · rw [hfin]
      exact .overflow rfl (packProduce_compressStages_error he) rfl rfl
  · exact phaseOutcome_finishOut nofun htv rfl rfl fun _ => unpackProduce_error
  · exact .failure nofun nofun (fun _ => rfl) rfl rfl
  · exact .success trivial rfl rfl rfl

/-- A legal PACK or DECOMPRESS has a table, by the phase or by TV itself. -/
theorem tv_of_legal {i : Instr} {s : State} (hi : i = .pack ∨ i = .decompress) (hlegal : legal i s)
    (hphase : PhaseOk s) : tvAfter i s.tv = true := by
  rcases hi with rfl | rfl
  · exact hphase (.inl hlegal)
  · exact hlegal

/-! ### Only commands and the reset move PHASE -/

theorem serveEvent_phase {e : HostEvent} (he : e ≠ .reset) (s : State) : (serveEvent e s).phase = s.phase := by
  cases e with
  | read off w => rw [serveEvent, serveRead_frame]
  | write off d => rw [serveEvent, serveWrite_frame]
  | reset => exact absurd rfl he

theorem step_phase_ne {s t : State} (h : step s = .next t) (hne : t.phase ≠ s.phase) :
    (∃ rest i, s.host = cmd i :: rest ∧ exec i { s with host := rest, resp := .done } = .next t) ∨
      (∃ rest, s.host = .reset :: rest ∧ t.phase = .idle) := by
  obtain ⟨-, ht⟩ | ⟨w, rest, i, hs, hw, ht⟩ | ⟨w, rest, -, -, ht⟩ | ⟨e, rest, hs, -, ht⟩ := step_cases h
  · injection ht with ht
    exact absurd (congrArg State.phase ht) hne
  · obtain rfl := (decodingIsExactMatchOnTheTable.2 w i).1 hw
    exact .inl ⟨rest, i, hs, ht.symm⟩
  · injection ht with ht
    exact absurd (congrArg State.phase ht) hne
  · injection ht with ht
    by_cases he : e = .reset
    · subst he
      exact .inr ⟨rest, hs, by rw [ht]; rfl⟩
    · exact absurd ((congrArg State.phase ht).trans (serveEvent_phase he _)) hne

/-- Settles O56: each clause is read off the way the command ends. -/
theorem commandsFollowThePhaseTable : Obligations.CommandsFollowThePhaseTable := by
  unfold Obligations.CommandsFollowThePhaseTable
  refine ⟨fun i s t h => ?_, fun s t => step_phase_ne⟩
  cases exec_phaseOutcome h with
  | success hlegal herr hphase htv =>
    exact ⟨fun _ => ⟨hphase, htv, hlegal⟩, absurd hlegal, absurd herr, absurd herr,
      fun _ hok hi => htv.trans (tv_of_legal hi hlegal hok)⟩
  | failure hi herr hillegal hphase htv =>
    exact ⟨fun hok => absurd hok herr, hillegal, fun _ _ => ⟨hphase, htv⟩, fun _ hc => absurd hc hi,
      fun hok => absurd hok herr⟩
  | overflow hi herr hphase htv =>
    subst hi
    have hne : t.err ≠ .ok := by simp [herr]
    exact ⟨fun hok => absurd hok hne, fun hnot => absurd trivial hnot, fun _ hc => absurd rfl hc,
      fun _ _ => ⟨herr, hphase, htv⟩, fun hok => absurd hok hne⟩

/-! ### CLEAR (45_facade.md R223) -/

/-- No command but CLEAR clears TV. -/
theorem PhaseOutcome.tv_of_tv {i : Instr} {s t : State} (h : PhaseOutcome i s t) (hi : i ≠ .clear) (hs : s.tv = true) :
    t.tv = true := by
  cases h with
  | success _ _ _ htv =>
    rw [htv, hs]
    cases i with
    | clear => exact absurd rfl hi
    | trim | analyze | build | derive | pack | compress | decompress => rfl
  | failure _ _ _ _ htv => exact htv.trans hs
  | overflow _ _ _ htv => exact htv

/-- Settles O55: CLEAR writes the reset values, TV among them, and every other command keeps TV and STICKY set. -/
theorem clearLeavesAFreshInstance : Obligations.ClearLeavesAFreshInstance := by
  unfold Obligations.ClearLeavesAFreshInstance
  refine ⟨exec_clear, fun s t u ht hu => ?_, fun i s t h hi => ?_⟩
  · rw [exec_clear_eq ht, exec_decompress_illegal (by simp)] at hu
    injection hu with hu
    rw [← hu]
    rfl
  · exact ⟨fun hsticky => (exec_endsFrom h hi).sticky_iff.2 (.inl hsticky), (exec_phaseOutcome h).tv_of_tv hi⟩

end Sys2Proof.Machine

/-! ## Errors: what raises them, what they leave, and that they come again (60_exceptions.md) -/

namespace Sys2Proof.Machine

open Sys2Proof

/-! ### No command, the wrong phase, no table (60_exceptions.md R251, R252, R253) -/

theorem runCommand_of_not_decode {w : Word} (h : decode w = none) (s : State) :
    runCommand w s = .next (illegalCommand w s) := by
  simp only [runCommand, h]

theorem encode_mem_commandWords (i : Instr) :
    encode i ∈ [0x01#32, 0x02#32, 0x03#32, 0x04#32, 0x05#32, 0x10#32, 0x11#32, 0x20#32] := by
  cases i <;> decide

/-- Settles O3: only the words of the eight commands decode, and `illegalCommand` is what is left to run. -/
theorem illegalWordRaisesIllegalCommand : Obligations.IllegalWordRaisesIllegalCommand := by
  unfold Obligations.IllegalWordRaisesIllegalCommand
  intro s w rest hs hw
  have hnone : decode w = none := by
    refine Option.eq_none_iff_forall_ne_some.2 fun i hi => hw ?_
    rw [(decodingIsExactMatchOnTheTable.2 w i).1 hi]
    exact encode_mem_commandWords i
  exact (step_command hs rfl).trans (runCommand_of_not_decode hnone _)

/-- Settles O24: the phase is tested first, and the error entry is then all the command does. -/
theorem stagedCommandsRequireTheirPhase : Obligations.StagedCommandsRequireTheirPhase := by
  unfold Obligations.StagedCommandsRequireTheirPhase
  exact fun s => ⟨exec_build_illegal, exec_derive_illegal, exec_pack_illegal⟩

/-- Only DERIVE and COMPRESS set TV. -/
theorem PhaseOutcome.derive_or_compress_of_sets_tv {i : Instr} {s t : State} (h : PhaseOutcome i s t)
    (hs : s.tv = false) (ht : t.tv = true) : i = .derive ∨ i = .compress := by
  have hne : t.tv ≠ s.tv := by simp [hs, ht]
  cases h with
  | success _ _ _ htv =>
    cases i with
    | derive => exact .inl rfl
    | compress => exact .inr rfl
    | clear => exact absurd (htv.trans hs.symm) hne
    | trim | analyze | build | pack | decompress => exact absurd htv hne
  | failure _ _ _ _ htv => exact absurd htv hne
  | overflow hi _ _ _ => exact .inr hi

/-- COMPRESS sets TV even when its last stage fails. -/
theorem PhaseOutcome.tv_of_compress {s t : State} (h : PhaseOutcome .compress s t) : t.tv = true := by
  cases h with
  | success _ _ _ htv => exact htv
  | failure hi _ _ _ _ => exact absurd rfl hi
  | overflow _ _ _ htv => exact htv

/-- Settles O45: TV is tested first, and the phase table says which commands set it. -/
theorem decompressWithoutATableRaisesNoTable : Obligations.DecompressWithoutATableRaisesNoTable := by
  unfold Obligations.DecompressWithoutATableRaisesNoTable
  refine ⟨fun s htv => exec_decompress_illegal (by simp [htv]), fun c => rfl, fun s t h => ?_,
    fun i s t h => (exec_phaseOutcome h).derive_or_compress_of_sets_tv, ?_⟩
  · rw [exec_clear_eq h]
    rfl
  · rintro s t (⟨h, hok⟩ | h)
    · exact ((commandsFollowThePhaseTable.1 _ s t h).1 hok).2.1
    · exact (exec_phaseOutcome h).tv_of_compress

/-! ### A result longer than OUT_CAP (60_exceptions.md R256) -/

theorem fitOut_of_lt {n : Nat} {p : Produced} (h : n < p.bytes.length) : fitOut n p = .error ⟨.overflow, 0#32⟩ :=
  if_pos h

/-- Settles O38: each of the three makes its complete result without an error, and the check against OUT_CAP fails. -/
theorem oversizedResultsOverflow : Obligations.OversizedResultsOverflow := by
  unfold Obligations.OversizedResultsOverflow
  refine ⟨fun s hp hcoded hcap => ?_, fun s b hb hcap => ?_, fun s d x out htv hunpad hdec hcap => ?_⟩
  · obtain ⟨a, -, hlen, hprod⟩ := packProduce_of_coded hcoded
    rw [fitOut_of_lt (hcap.trans_eq hlen.symm)] at hprod
    rw [exec_pack_legal hp, hprod]
    rfl
  · obtain ⟨a, -, hlen, hprod⟩ := packProduce_compressStages hb
    rw [fitOut_of_lt (hcap.trans_eq hlen.symm)] at hprod
    rw [exec_compress, hprod, compressStages_eq hb]
    rfl
  · have hprod := unpackProduce_of_decode_ok hunpad hdec
    rw [fitOut_of_lt hcap] at hprod
    exact exec_decompress_error htv hprod

/-! ### How a command fails (60_exceptions.md R257, R260) -/

/-- The ways a command can fail, each with the condition for it and the state it leaves. -/
inductive Failure : Instr → State → State → Prop where
  | build {s : State} (hp : s.phase ≠ .analyzed) : Failure .build s (errorEntry (sequenceRaise s) s)
  | derive {s : State} (hp : s.phase ≠ .treeBuilt) : Failure .derive s (errorEntry (sequenceRaise s) s)
  | packPhase {s : State} (hp : s.phase ≠ .tableReady) : Failure .pack s (errorEntryOut (sequenceRaise s) s)
  | packWork {s : State} {e : Raise} (hp : s.phase = .tableReady) (he : packProduce s = .error e) :
    Failure .pack s (errorEntryOut e s)
  | compress {s : State} {e : Raise} (he : packProduce (compressStages s) = .error e) :
    Failure .compress s (errorEntryOut e (compressStages s))
  | noTable {s : State} (htv : s.tv ≠ true) : Failure .decompress s (errorEntryOut ⟨.noTable, 0#32⟩ s)
  | decompressWork {s : State} {e : Raise} (htv : s.tv = true) (he : unpackProduce s = .error e) :
    Failure .decompress s (errorEntryOut e s)

theorem finishOut_failed {r : Except Raise Produced} {p : Phase} {s : State} (h : (finishOut r p s).err ≠ .ok) :
    ∃ e, r = .error e ∧ finishOut r p s = errorEntryOut e s := by
  obtain ⟨o, -, hfin⟩ | herr := finishOut_cases r p s
  · rw [hfin] at h
    exact absurd rfl h
  · exact herr

theorem exec_failure {i : Instr} {s t : State} (h : exec i s = .next t) (hne : t.err ≠ .ok) : Failure i s t := by
  obtain ⟨rfl, ht⟩ | ⟨rfl, ht⟩ | ⟨rfl, -, ht⟩ | ⟨rfl, hp, ht⟩ | ⟨rfl, -, ht⟩ | ⟨rfl, hp, ht⟩ | ⟨rfl, hp, ht⟩ |
    ⟨rfl, hp, ht⟩ | ⟨rfl, ht⟩ | ⟨rfl, htv, ht⟩ | ⟨rfl, htv, ht⟩ | ⟨rfl, ht⟩ := exec_cases h
  all_goals
    injection ht with ht
    subst ht
  · exact absurd rfl hne
  · exact absurd rfl hne
  · exact absurd rfl hne
  · exact .build hp
  · exact absurd rfl hne
  · exact .derive hp
  · obtain ⟨e, he, hfin⟩ := finishOut_failed hne
    exact hfin ▸ .packWork hp he
  · exact .packPhase hp
  · obtain ⟨e, he, hfin⟩ := finishOut_failed hne
    exact hfin ▸ .compress he
  · obtain ⟨e, he, hfin⟩ := finishOut_failed hne
    exact hfin ▸ .decompressWork htv he
  · exact .noTable htv
  · exact absurd rfl hne

/-- Settles O57: every way to fail but that of COMPRESS is an error entry on the state the command found. -/
theorem failedCommandsChangeOnlyTheErrorState : Obligations.FailedCommandsChangeOnlyTheErrorState := by
  unfold Obligations.FailedCommandsChangeOnlyTheErrorState
  intro i s t h hne hi
  cases exec_failure h hne with
  | build | derive | packPhase | packWork | noTable | decompressWork => rfl
  | compress => exact absurd rfl hi

/-! ### A failed command is issued again (60_exceptions.md R260) -/

/-- PACK's work reads nothing that the error entry writes. -/
theorem packProduce_errorEntryOut (e : Raise) (s : State) : packProduce (errorEntryOut e s) = packProduce s := rfl

/-- DECOMPRESS's work reads nothing that the error entry writes. -/
theorem unpackProduce_errorEntryOut (e : Raise) (s : State) : unpackProduce (errorEntryOut e s) = unpackProduce s := rfl

/-- The stages write again what they wrote: their input is trimmed already. -/
theorem compressStages_failed (e : Raise) (s : State) :
    compressStages (errorEntryOut e (compressStages s)) = errorEntryOut e (compressStages s) := by
  generalize hb : trim s.cfg.ws (inputBytes s) = b
  have hcfg : (compressStages s).cfg = s.cfg := (commandFrame_compressStages s).cfg
  have hb' : b = trim (errorEntryOut e (compressStages s)).cfg.ws (inputBytes (errorEntryOut e (compressStages s))) :=
    calc
      b = trim s.cfg.ws (trim s.cfg.ws (inputBytes s)) := by rw [trim_trim, hb]
      _ = trim (compressStages s).cfg.ws (inputBytes (compressStages s)) := by rw [inputBytes_compressStages, hcfg]
  rw [compressStages_eq hb', compressStages_eq hb.symm]
  rfl

/-- Issued again, a failed command finds the same condition and leaves the state as it is. -/
theorem Failure.exec_again {i : Instr} {s t : State} (h : Failure i s t) : exec i t = .next t := by
  cases h with
  | build hp => exact exec_build_illegal hp
  | derive hp => exact exec_derive_illegal hp
  | packPhase hp => exact exec_pack_illegal hp
  | @packWork s e hp he =>
    rw [exec_pack_legal (s := errorEntryOut e s) hp, packProduce_errorEntryOut, he]
    rfl
  | compress he =>
    rw [exec_compress, compressStages_failed, packProduce_errorEntryOut, he]
    rfl
  | noTable htv => exact exec_decompress_illegal htv
  | @decompressWork s e htv he =>
    rw [exec_decompress_legal (s := errorEntryOut e s) htv, unpackProduce_errorEntryOut, he]
    rfl

/-- Settles O59: the state a failed command leaves is the state the same command leaves again. -/
theorem failedCommandsFailAgain : Obligations.FailedCommandsFailAgain := by
  unfold Obligations.FailedCommandsFailAgain
  exact fun i s t h hne => ⟨t, (exec_failure h hne).exec_again, rfl, rfl⟩

end Sys2Proof.Machine

/-! ## Every step answers a next state (70_reset_and_hazards.md R290) -/

namespace Sys2Proof.Machine

open Sys2Proof

/-- Settles O4: a wait, an illegal word and an event of the bus answer their next state outright, and a legal command
goes on. -/
theorem everyStepAnswersNext : Obligations.EveryStepAnswersNext := by
  unfold Obligations.EveryStepAnswersNext
  intro s
  obtain ⟨-, h⟩ | ⟨w, rest, i, -, -, h⟩ | ⟨w, rest, -, -, h⟩ | ⟨e, rest, -, -, h⟩ := step_cases (s := s) rfl
  · exact ⟨s, h⟩
  · obtain ⟨t, ht⟩ := exec_next i (respond .done (popHost rest s))
    exact ⟨t, h.trans ht⟩
  · exact ⟨_, h⟩
  · exact ⟨_, h⟩

end Sys2Proof.Machine
